-- ==== Sys2Proof/Word.lean ====
section
/-! DEFINITION. The words of the block: one name per width of spec/00_scope.md rule R10. Every quantity is a
fixed-point or plain integer word (R11, R12); nothing in the block is a floating-point number. -/

namespace Sys2Proof

/-- A command word, 48 bits (`CMD_W`, rules R10, R55). -/
abbrev CmdWord := BitVec 48

/-- The `op` and `rsv` fields of a command word, 4 bits each (R56). -/
abbrev OpField := BitVec 4

/-- The `b8` field of a command word: a pitch or a parameter id (`PITCH_W`, `ID_W`, rules R10, R56, R59). -/
abbrev ByteField := BitVec 8

/-- The `d32` field of a command word: a sample rate (SQ23.8, `SR_W`) or a parameter value (R10, R56, R59). -/
abbrev DataField := BitVec 32

/-- A parameter register, 32 bits, format SQ15.16 (`PARAM_W`, rules R10, R21). -/
abbrev ParamWord := BitVec 32

/-- The phase accumulator, 32 bits, format UQ0.32 cycles (`PHASE_W`, rules R10, R24). -/
abbrev PhaseWord := BitVec 32

/-- The frequency register, 54 bits, format UQ14.40 Hz (`FREQ_W`, rules R10, R25). -/
abbrev FreqWord := BitVec 54

/-- An entry of the pitch table, 32 bits, format UQ14.18 Hz (`LUT_W`, rules R10, R76). -/
abbrev TableWord := BitVec 32

/-- The elapsed-time counter, 48 bits, format UQ16.32 seconds (`ELAPSED_W`, rules R10, R30). -/
abbrev ElapsedWord := BitVec 48

/-- An envelope level, 17 bits, format UQ1.16, of which only 0..65536 is used (`LEVEL_W`, rules R10, R12, R29). -/
abbrev LevelWord := BitVec 17

/-- The code of an envelope state, 3 bits (`STATE_W`, rules R10, R28). -/
abbrev StateCode := BitVec 3

/-- An output sample, 49 bits, format SQ16.32 (`OUT_W`, rules R10, R62, R121). -/
abbrev SampleWord := BitVec 49

/-- The code of a response status, 3 bits (`STATUS_W`, rules R10, R62, R63). -/
abbrev StatusCode := BitVec 3

end Sys2Proof
end

