-- ==== Sys2Proof/Syntax.lean ====
section
/-! DEFINITION. The five commands of the block (spec/30_encoding.md rule R55), one constructor per row of
spec/opcode_table.json. An operand is the field of the command word as it stands in the word; Machine/Operands.lean
reads it as the number rule R59 says. -/

namespace Sys2Proof

/-- A command. The word "instruction" is read as "command" (rule R2). -/
inductive Instr where
  /-- `NOTE_ON pitch` (R122); `pitch` is the field `b8` of format N. -/
  | noteOn (pitch : ByteField)
  /-- `NOTE_OFF` (R123), format Z: no operand. -/
  | noteOff
  /-- `PROCESS rate` (R124); `rate` is the field `d32` of format R. -/
  | process (rate : DataField)
  /-- `SET_PARAM id, value` (R137); `id` is the field `b8`, `value` the field `d32` of format S. -/
  | setParam (id : ByteField) (value : DataField)
  /-- `GET_PARAM id` (R138); `id` is the field `b8` of format G. -/
  | getParam (id : ByteField)
  deriving DecidableEq, Repr

end Sys2Proof
end

