-- ==== Sys2Proof/WellFormed.lean ====
section
/-! DEFINITION. What a well-formed command is. An operand of `Instr` has exactly the width of its field and every value
of that field decodes (spec/30_encoding.md rules R59, R61: an id in 5..255 and a rate of 0 or less "are not illegal
words"), so the checks of this hardware are checks on the WORD: the `match`/`mask` pair of each format (rule R58). They
are written here from the table of R58, apart from the field-by-field decoder of Decode.lean, which is written from the
pseudocode of R60. -/

namespace Sys2Proof

/-- One row of the table of rule R58: a word is the row's command when its bits under `mask` are `pattern`. -/
structure FormatRow where
  pattern : CmdWord
  mask : CmdWord
  deriving DecidableEq, Repr

/-- The word is of this row's format (R58). -/
def FormatRow.admits (r : FormatRow) (w : CmdWord) : Bool := w &&& r.mask == r.pattern

/-- Format N: `NOTE_ON`. -/
def formatN : FormatRow := { pattern := 0x100000000000, mask := 0xFF00FFFFFFFF }
/-- Format Z: `NOTE_OFF`. -/
def formatZ : FormatRow := { pattern := 0x200000000000, mask := 0xFFFFFFFFFFFF }
/-- Format R: `PROCESS`. -/
def formatR : FormatRow := { pattern := 0x300000000000, mask := 0xFFFF00000000 }
/-- Format S: `SET_PARAM`. -/
def formatS : FormatRow := { pattern := 0x400000000000, mask := 0xFF0000000000 }
/-- Format G: `GET_PARAM`. -/
def formatG : FormatRow := { pattern := 0x500000000000, mask := 0xFF00FFFFFFFF }

/-- The five rows of rule R58, in its order. -/
def formatRows : List FormatRow := [formatN, formatZ, formatR, formatS, formatG]

/-- The format of a command (R57, R58). -/
def Instr.format : Instr → FormatRow
  | .noteOn _ => formatN
  | .noteOff => formatZ
  | .process _ => formatR
  | .setParam _ _ => formatS
  | .getParam _ => formatG

/-- A legal command word: one that some row of R58 admits. Every other word is illegal (R61). -/
def legalWord (w : CmdWord) : Bool := formatRows.any fun r => r.admits w

/-- A well-formed command: every one is, since each operand has the type of its field and the spec shuts out no value
of a field at decoding (R59, R61). -/
def Instr.wellFormed : Instr → Bool
  | .noteOn _ => true
  | .noteOff => true
  | .process _ => true
  | .setParam _ _ => true
  | .getParam _ => true

end Sys2Proof
end

