-- ==== Sys2Proof/Decode.lean ====
section
/-! DEFINITION. The decoder and the encoder of command words, from spec/30_encoding.md rules R56 to R61. A command is one
48-bit word moved whole (rule R45: no byte order arises), so decoding takes the word, not bytes. -/

namespace Sys2Proof

/-- Bits 47:44, the operation (R56). -/
def opField (w : CmdWord) : OpField := w.extractLsb' 44 4
/-- Bits 43:40, reserved (R56). -/
def rsvField (w : CmdWord) : OpField := w.extractLsb' 40 4
/-- Bits 39:32, the pitch or the parameter id (R56). -/
def b8Field (w : CmdWord) : ByteField := w.extractLsb' 32 8
/-- Bits 31:0, the sample rate or the parameter value (R56). -/
def d32Field (w : CmdWord) : DataField := w.extractLsb' 0 32

/-- Why a word is illegal: the three grounds of rule R61. -/
inductive Illegal where
  /-- `rsv` is not 0. -/
  | reservedNotZero
  /-- `op` is 0 or 6..15. -/
  | unknownOp
  /-- A must-be-zero field of the word's format is not 0. -/
  | mustBeZero
  deriving DecidableEq, Repr

/-- What a word decodes to: one of the five commands, or illegal (R60). -/
inductive Decoded where
  | command (i : Instr)
  | illegal (why : Illegal)
  deriving DecidableEq, Repr

/-- The command of a decoded word, if it is one. -/
def Decoded.command? : Decoded → Option Instr
  | .command i => some i
  | .illegal _ => none

/-- `decode(w)` of rule R60, case by case; a word of none of the five cases is illegal (R61). -/
def decode (w : CmdWord) : Decoded :=
  if rsvField w ≠ 0 then .illegal .reservedNotZero
  else if opField w = 1 ∧ d32Field w = 0 then .command (.noteOn (b8Field w))
  else if opField w = 2 ∧ b8Field w = 0 ∧ d32Field w = 0 then .command .noteOff
  else if opField w = 3 ∧ b8Field w = 0 then .command (.process (d32Field w))
  else if opField w = 4 then .command (.setParam (b8Field w) (d32Field w))
  else if opField w = 5 ∧ d32Field w = 0 then .command (.getParam (b8Field w))
  else if opField w = 1 ∨ opField w = 2 ∨ opField w = 3 ∨ opField w = 5 then .illegal .mustBeZero
  else .illegal .unknownOp

/-- The word with these fields, `rsv` being 0 (R56). -/
def packWord (op : OpField) (b8 : ByteField) (d32 : DataField) : CmdWord :=
  op ++ (0 : OpField) ++ b8 ++ d32

/-- The word of a command (R57, R58). -/
def encode : Instr → CmdWord
  | .noteOn pitch => packWord 1 pitch 0
  | .noteOff => packWord 2 0 0
  | .process rate => packWord 3 0 rate
  | .setParam id value => packWord 4 id value
  | .getParam id => packWord 5 id 0

/-- The command word that the host's table names by `nbits` and `w`: the low `nbits` bits of `w`, every higher bit of
the 48 being 0. -/
def tableWord (nbits w : Nat) : CmdWord := BitVec.ofNat 48 (w % 2 ^ nbits)

/-- The command the decoder reads from the table's word; none where it refuses the word, and none for a row wider than
the one length of 48 bits (R56). -/
def decodeTableWord (nbits w : Nat) : Option Instr :=
  if nbits ≤ 48 then (decode (tableWord nbits w)).command? else none

end Sys2Proof
end

