-- ==== Sys2Proof/Machine/State.lean ====
section
/-! DEFINITION. The state of the machine: the block's eleven elements (spec/10_state.md rule R20), its response port and
the host's pending choices, and the state after reset (rule R36). The elements are grouped as the spec groups them:
parameters, oscillator, envelope. -/

namespace Sys2Proof.Machine

/-- The five parameters, in the order of their ids 0 to 4 (rule R21). -/
inductive Param where
  | masterVolume | attackTime | decayTime | sustain | releaseTime
  deriving DecidableEq, Repr

/-- The five parameter registers `x[0]` to `x[4]`, each a raw SQ15.16 word (rules R21 to R23). No register is hardwired
and none aliases another. -/
structure Params where
  /-- `x[0]`, the master volume. -/
  masterVolume : ParamWord
  /-- `x[1]`, the attack time. -/
  attackTime : ParamWord
  /-- `x[2]`, the decay time. -/
  decayTime : ParamWord
  /-- `x[3]`, the sustain level. -/
  sustain : ParamWord
  /-- `x[4]`, the release time. -/
  releaseTime : ParamWord
  deriving DecidableEq, Repr

/-- The oscillator state (rules R24, R25). -/
structure Oscillator where
  /-- `osc.phase`, the phase accumulator. -/
  phase : PhaseWord
  /-- `osc.freq`, the frequency of the last pitch set; 0 before any. -/
  freq : FreqWord
  deriving DecidableEq, Repr

/-- `env.state`: the five named phases (rule R28). The unused codes 5, 6, 7 cannot be written (U11 of
spec/93_implementation_defined.md). -/
inductive EnvState where
  | idle | attack | decay | sustain | release
  deriving DecidableEq, Repr

/-- The envelope state (rules R28 to R31). -/
structure Envelope where
  /-- `env.state`, the phase tag. -/
  state : EnvState
  /-- `env.level`, the current output level. -/
  level : LevelWord
  /-- `env.elapsed`, the time since the current phase was entered. -/
  elapsed : ElapsedWord
  /-- `env.rel_start`, the level at which the last Release began. -/
  relStart : LevelWord
  deriving DecidableEq, Repr

/-- The whole state of one block instance: the eleven elements of rule R20. -/
structure Block where
  x : Params
  osc : Oscillator
  env : Envelope
  deriving DecidableEq, Repr

/-- The status of a response (rule R63). The unused codes 4 to 7 cannot be written (U11). -/
inductive Status where
  | ok | unknownParam | badRate | illegalCmd
  deriving DecidableEq, Repr

/-- A response (rule R62). -/
structure Response where
  status : Status
  left : SampleWord
  right : SampleWord
  value : ParamWord
  deriving DecidableEq, Repr

/-- What the host may do next (rule R9): present a command word, or assert reset. -/
inductive HostInput where
  /-- Present this word on the command port (R55). -/
  | command (w : CmdWord)
  /-- Assert reset (R165), with the command that was accepted and not yet answered, if there is one: reset abandons it. -/
  | reset (inFlight : Option CmdWord)
  deriving DecidableEq, Repr

/-- The machine. `blk` is the block's state; the other two fields are the MODEL's own (log entries 1 and 2): `rsp` is the
response port after the last step, and `inputs` is what the host will do from now on, the next thing first. -/
structure State where
  /-- The eleven elements (R20). -/
  blk : Block
  /-- The response given by the last step, if that step answered a command (R62, R64). -/
  rsp : Option Response
  /-- The host's choices still to come (R9, R44, R53). -/
  inputs : List HostInput
  deriving DecidableEq, Repr

/-- Why the machine stops with a fault: never. "The block never stops accepting commands, has no halted or faulted
state" (rule R146), and the error statuses are ordinary outcomes (R162), so this type has no constructor. -/
inductive Fault where
  deriving DecidableEq, Repr

/-- Why a run has no meaning in the model. -/
inductive Refusal where
  /-- Raised by `exec` for a command of the opcode table that has no meaning yet; no arm raises it. Safe: the run stops. -/
  | notModelled (mnemonic : String)
  deriving DecidableEq, Repr

/-- The eleven elements after reset: every one is zero (rule R36). -/
def Block.reset : Block :=
  { x := { masterVolume := 0, attackTime := 0, decayTime := 0, sustain := 0, releaseTime := 0 }
    osc := { phase := 0, freq := 0 }
    env := { state := .idle, level := 0, elapsed := 0, relStart := 0 } }

/-- The machine right after reset (rules R36, R165): the block's reset state, no response on the port, and no host input
placed (log entries 1 and 2). -/
def State.reset : State := { blk := Block.reset, rsp := none, inputs := [] }

end Sys2Proof.Machine
end

