-- ==== Sys2Proof/Machine/Flags.lean ====
section
/-! DEFINITION. The block has NO flags, condition codes or sticky bits (spec/10_state.md rule R33). This file holds what
stands in their place: the codes of a response status (spec/30_encoding.md rule R63) and of the envelope's state tag
(rule R28), each with its reading back, and the response of a command that failed (rules R15, R62). -/

namespace Sys2Proof.Machine

/-- The 3-bit code of a status (R63). -/
def Status.code : Status → StatusCode
  | .ok => 0
  | .unknownParam => 1
  | .badRate => 2
  | .illegalCmd => 3

/-- The status of a code; the codes 4 to 7 are never produced (R63). -/
def Status.ofCode (c : StatusCode) : Option Status :=
  if c = 0 then some .ok
  else if c = 1 then some .unknownParam
  else if c = 2 then some .badRate
  else if c = 3 then some .illegalCmd
  else none

/-- The 3-bit code of an envelope state (R28). -/
def EnvState.code : EnvState → StateCode
  | .idle => 0
  | .attack => 1
  | .decay => 2
  | .sustain => 3
  | .release => 4

/-- The envelope state of a code; the codes 5 to 7 are never written (R28). -/
def EnvState.ofCode (c : StateCode) : Option EnvState :=
  if c = 0 then some .idle
  else if c = 1 then some .attack
  else if c = 2 then some .decay
  else if c = 3 then some .sustain
  else if c = 4 then some .release
  else none

/-- The response of a failed command: its status, and every other field zero (R15, R146). -/
def errorResponse (e : Status) : Response := { status := e, left := 0, right := 0, value := 0 }

end Sys2Proof.Machine
end

