-- ==== Sys2Proof/Machine/Operands.lean ====
section
/-! DEFINITION. Operand assembly (spec/30_encoding.md rule R59), the id check `PARAM_OF` (spec/44_parameters.md rule
R136), the parameter registers by name, and the effective values the envelope uses (spec/42_envelope.md rule R99). -/

namespace Sys2Proof.Machine

/-- `pitch = sext_8(b8)`: -128..127 semitones (R59). -/
def pitchOperand (b8 : ByteField) : Int := b8.toInt

/-- `S = sext_32(d32)`: the sample rate in SQ23.8, valid when `S >= 1` (R59). -/
def rateOperand (d32 : DataField) : Int := d32.toInt

/-- `id = zext_8(b8)`: 0..255, of which 0..4 are valid (R59). -/
def idOperand (b8 : ByteField) : Nat := b8.toNat

/-- `value`: the 32-bit word itself, stored as is (R59). -/
def valueOperand (d32 : DataField) : ParamWord := d32

/-- A parameter register read as the signed integer `sext_32` of its 32 bits (R14). -/
def paramInt (w : ParamWord) : Int := w.toInt

/-- `PARAM_OF(id)` (R136): the parameter of a valid id; none is the failure `UNKNOWN_PARAM`. Ids and names are those of
rule R21. -/
def paramOf (id : Nat) : Option Param :=
  match id with
  | 0 => some .masterVolume
  | 1 => some .attackTime
  | 2 => some .decayTime
  | 3 => some .sustain
  | 4 => some .releaseTime
  | _ => none

/-- The id of a parameter (R21). -/
def Param.id : Param → Nat
  | .masterVolume => 0
  | .attackTime => 1
  | .decayTime => 2
  | .sustain => 3
  | .releaseTime => 4

/-- `x[i]`: the register of a parameter (R14, R140). -/
def Params.read (x : Params) : Param → ParamWord
  | .masterVolume => x.masterVolume
  | .attackTime => x.attackTime
  | .decayTime => x.decayTime
  | .sustain => x.sustain
  | .releaseTime => x.releaseTime

/-- `x[i] <- v`: the registers with one of them written (R14, R140). -/
def Params.write (x : Params) (p : Param) (v : ParamWord) : Params :=
  match p with
  | .masterVolume => { x with masterVolume := v }
  | .attackTime => { x with attackTime := v }
  | .decayTime => { x with decayTime := v }
  | .sustain => { x with sustain := v }
  | .releaseTime => { x with releaseTime := v }

/-- `max(x, 0)`: the effective time of a time register, in units of 2^-16 s (R99). -/
def effTime (w : ParamWord) : Nat := (max (paramInt w) 0).toNat

/-- `clamp(x, 0, 65536)`: the effective sustain level (R13, R99). -/
def effSustain (w : ParamWord) : Nat := (min (max (paramInt w) 0) 65536).toNat

/-- `A_eff` (R99). -/
def attackEff (x : Params) : Nat := effTime x.attackTime
/-- `D_eff` (R99). -/
def decayEff (x : Params) : Nat := effTime x.decayTime
/-- `S_eff` (R99). -/
def sustainEff (x : Params) : Nat := effSustain x.sustain
/-- `R_eff` (R99). -/
def releaseEff (x : Params) : Nat := effTime x.releaseTime

end Sys2Proof.Machine
end

