-- ==== Sys2Proof/Machine/Ops.lean ====
section
/-! DEFINITION. The operations every command is built from: giving a response (spec/00_scope.md rule R16), raising an
error status (rules R15, R146, R153), reset (spec/70_reset_and_hazards.md rule R165) and taking the host's next input
(rules R8, R9, R44). The block has no memory (rule R40), so there is no operation over memory. -/

namespace Sys2Proof.Machine

/-- `respond(status, left, right, value)`: the step ends with these four fields on the response port, and the block's
next state is `b` (R14: all writes of one step take effect together; R16). -/
def respond (b : Block) (status : Status) (left right : SampleWord) (value : ParamWord) (s : State) : State :=
  { s with blk := b, rsp := some { status := status, left := left, right := right, value := value } }

/-- `respond(OK, 0, 0, 0)` with the block's next state `b` (R62: a command that
returns nothing). -/
def respondOk (b : Block) (s : State) : State := respond b .ok 0 0 0 s

/-- `raise e`: the command ends at once, no element of the block is written, and the response carries the status and
zeros (R15). This is all there is of an exception: "An error saves no state, changes no mode, masks nothing, switches no
stack and transfers control nowhere" (R153), and there is no return from one (R154). -/
def raise (e : Status) (s : State) : State := { s with rsp := some (errorResponse e) }

/-- A word that decodes to no command (R61, R149). -/
def illegalCommand (s : State) : State := raise .illegalCmd s

/-- The host's inputs after the one being taken are `rest`. -/
def takeInput (rest : List HostInput) (s : State) : State := { s with inputs := rest }

/-- Reset (R165): the block's eleven elements take their reset values; a command that was accepted and not yet answered
is abandoned, with no response and no effect. -/
def hostReset (_inFlight : Option CmdWord) (s : State) : State := { s with blk := Block.reset, rsp := none }

/-- The host presents nothing: no element of the block changes (R8: "Between steps no state changes") and there is no
response on the port (R64; log entry 3). -/
def noInput (s : State) : State := { s with rsp := none }

end Sys2Proof.Machine
end

