-- ==== Sys2Proof/Machine/Parameters.lean ====
section
/-! DEFINITION. Parameter access: the meanings of `SET_PARAM` and `GET_PARAM` (spec/44_parameters.md rules R137, R138). -/

namespace Sys2Proof.Machine

/-- `SET_PARAM id, value` (R137): the word is stored bit for bit; an id of 5 or more raises `UNKNOWN_PARAM` and writes
nothing (R147). -/
def execSetParam (id : ByteField) (value : DataField) (s : State) : Host.Outcome State Fault Refusal :=
  match paramOf (idOperand id) with
  | none => .next (raise .unknownParam s)
  | some p => .next (respondOk { s.blk with x := s.blk.x.write p (valueOperand value) } s)

/-- `GET_PARAM id` (R138): the word as stored; an id of 5 or more raises `UNKNOWN_PARAM` (R147). -/
def execGetParam (id : ByteField) (s : State) : Host.Outcome State Fault Refusal :=
  match paramOf (idOperand id) with
  | none => .next (raise .unknownParam s)
  | some p => .next (respond s.blk .ok 0 0 (s.blk.x.read p) s)

end Sys2Proof.Machine
end

