-- ==== Sys2Proof/Machine/Envelope.lean ====
section
/-! DEFINITION. The ADSR envelope generator (spec/42_envelope.md): `RAMP` (R98), `DT` (R103), `ENV_NOTE_ON` (R100),
`ENV_NOTE_OFF` (R101) and `ENV_PROCESS` (R102) with its five arms (R104 to R108). -/

namespace Sys2Proof.Machine

/-- `T << 16`: an effective time in the unit of the elapsed time, 2^-32 s (R98). -/
def stageEnd (T : Nat) : Nat := T * 2 ^ 16

/-- `RAMP(start, target, E, T)` for `T >= 1` and `E < T << 16` (R98): the straight line from `start` at time 0 to
`target` at time `T`, the part of the way already covered floored. -/
def ramp (start target E T : Nat) : Nat :=
  if start ≤ target then start + (target - start) * E / stageEnd T
  else start - (start - target) * E / stageEnd T

/-- `DT(S) = floor(2^40 / S)` for `S >= 1`: the time step of one sample in units of 2^-32 s (R103). -/
def sampleTime (S : Nat) : Nat := 2 ^ 40 / S

/-- `ENV_NOTE_ON` (R100): restarts the envelope from Attack, whatever its state. -/
def envNoteOn (e : Envelope) : Envelope := { e with state := .attack, elapsed := 0, level := 0 }

/-- What `ENV_NOTE_OFF` does in Attack, Decay and Sustain (R101): Release begins from the current level. -/
def beginRelease (e : Envelope) : Envelope := { e with relStart := e.level, state := .release, elapsed := 0 }

/-- `ENV_NOTE_OFF` (R101): in Idle and Release it does nothing. -/
def envNoteOff (e : Envelope) : Envelope :=
  match e.state with
  | .idle => e
  | .attack => beginRelease e
  | .decay => beginRelease e
  | .sustain => beginRelease e
  | .release => e

/-- One sample of a timed stage (the common shape of rules R105, R106, R108): the elapsed time advances by `DT(S)`; when
it has reached the stage's time the level is the target, the state is the next one and its elapsed time is 0; until
then the level is the ramp's. Either word holds its value whole (R113). -/
def timedStage (start target T : Nat) (after : EnvState) (S : Nat) (e : Envelope) : Envelope :=
  if stageEnd T ≤ e.elapsed.toNat + sampleTime S then
    { e with level := BitVec.ofNat 17 target, state := after, elapsed := 0 }
  else
    { e with level := BitVec.ofNat 17 (ramp start target (e.elapsed.toNat + sampleTime S) T)
             elapsed := BitVec.ofNat 48 (e.elapsed.toNat + sampleTime S) }

/-- Arm `IDLE` (R104). -/
def envIdle (e : Envelope) : Envelope := { e with level := 0 }

/-- Arm `ATTACK` (R105): from 0 to 1.0 over the attack time, then Decay. -/
def envAttack (x : Params) (S : Nat) (e : Envelope) : Envelope :=
  timedStage 0 65536 (attackEff x) .decay S e

/-- Arm `DECAY` (R106): from 1.0 to the sustain level over the decay time, then Sustain. -/
def envDecay (x : Params) (S : Nat) (e : Envelope) : Envelope :=
  timedStage 65536 (sustainEff x) (decayEff x) .sustain S e

/-- Arm `SUSTAIN` (R107): held at the effective sustain level as the register stands at this call. -/
def envSustain (x : Params) (e : Envelope) : Envelope := { e with level := BitVec.ofNat 17 (sustainEff x) }

/-- Arm `RELEASE` (R108): from the value at release to 0 over the release time, then Idle. -/
def envRelease (x : Params) (S : Nat) (e : Envelope) : Envelope :=
  timedStage e.relStart.toNat 0 (releaseEff x) .idle S e

/-- `ENV_PROCESS(S)` for `S >= 1` (R102), with the parameters as they are at this call (R99, R114). Its result `L` is the
new `env.level`. -/
def envProcess (x : Params) (S : Nat) (e : Envelope) : Envelope :=
  match e.state with
  | .idle => envIdle e
  | .attack => envAttack x S e
  | .decay => envDecay x S e
  | .sustain => envSustain x e
  | .release => envRelease x S e

end Sys2Proof.Machine
end

