-- ==== Sys2Proof/Machine/Pitch.lean ====
section
/-! DEFINITION. The pitch-to-frequency converter (spec/40_pitch_to_frequency.md): the twelve constants of rule R76 and
the operation `P2F` of rule R77. -/

namespace Sys2Proof.Machine

/-- `T[0]` to `T[11]`: the frequencies of notes 116 to 127 in UQ14.18 (R76). Fixed wiring, not state (R38). -/
def pitchTable : Vector TableWord 12 :=
  #v[1741914154, 1845493760, 1955232530, 2071496706, 2194674310, 2325176436,
     2463438621, 2609922305, 2765116361, 2929538736, 3103738174, 3288296050]

/-- `d = 127 - p`: semitones below note 127 (R77). -/
def semitonesBelowTop (p : Int) : Nat := (127 - p).toNat

/-- `oct = floor(d / 12)`: whole octaves below the table's octave (R77). -/
def octaveBelowTop (p : Int) : Nat := semitonesBelowTop p / 12

/-- `idx = 11 - d mod 12`: the position inside the octave (R77). -/
def octaveIndex (p : Int) : Fin 12 := ⟨11 - semitonesBelowTop p % 12, by omega⟩

/-- `P2F(p)` for -128 <= p <= 127 (R77): `T[idx] << (22 - oct)`, a UQ14.40 frequency. Outside that domain, which no
command word can leave (R59), the spec gives no value and this is the formula's (log entry 6). -/
def p2f (p : Int) : Nat := (pitchTable[octaveIndex p]).toNat * 2 ^ (22 - octaveBelowTop p)

end Sys2Proof.Machine
end

