-- ==== Sys2Proof/Machine/Oscillator.lean ====
section
/-! DEFINITION. The square-wave oscillator (spec/41_oscillator.md): `OSC_SET_PITCH` (R86), the phase increment (R87) and
`OSC_PROCESS` (R88). -/

namespace Sys2Proof.Machine

/-- The oscillator's sample: +1 or -1, never anything else (R90). -/
inductive Sign where
  | plus | minus
  deriving DecidableEq, Repr

/-- The sample as an integer (R88). -/
def Sign.toInt : Sign → Int
  | .plus => 1
  | .minus => -1

/-- `OSC_SET_PITCH(p)` (R86): records the new frequency; the phase keeps its value. `P2F(p)` is below 2^54 (R77), so the
word holds it whole. -/
def oscSetPitch (p : Int) (o : Oscillator) : Oscillator := { o with freq := BitVec.ofNat 54 (p2f p) }

/-- `INC(S) = floor(osc.freq / S) mod 2^32` for `S >= 1` (R87); `BitVec.ofNat 32` is the reduction mod 2^32. -/
def oscInc (freq : FreqWord) (S : Nat) : PhaseWord := BitVec.ofNat 32 (freq.toNat / S)

/-- The state `OSC_PROCESS(S)` leaves: the phase advanced by one increment, mod 2^32 (R88). -/
def oscAdvance (S : Nat) (o : Oscillator) : Oscillator := { o with phase := o.phase + oscInc o.freq S }

/-- The sample at a phase: +1 in the first half of the cycle, -1 in the second (R88, R90). -/
def phaseSign (phase : PhaseWord) : Sign := if phase.toNat < 2 ^ 31 then .plus else .minus

/-- `OSC_PROCESS(S)` (R88): the phase is advanced first and the sample is taken from the advanced phase (R89). -/
def oscProcess (S : Nat) (o : Oscillator) : Oscillator × Sign :=
  (oscAdvance S o, phaseSign (oscAdvance S o).phase)

end Sys2Proof.Machine
end

