-- ==== Sys2Proof/Machine/Multiplier.lean ====
section
/-! DEFINITION. The audio sample multiplier (spec/43_voice_and_multiplier.md rule R121). -/

namespace Sys2Proof.Machine

/-- `MUL(sgn, L, mv) = sgn * L * mv`, the exact integer product (R121). -/
def mul (sgn : Sign) (L : Nat) (mv : Int) : Int := sgn.toInt * (L : Int) * mv

/-- The product as a 49-bit two's complement word of format SQ16.32; every product fits (R121). -/
def sampleWord (sgn : Sign) (level : LevelWord) (volume : ParamWord) : SampleWord :=
  BitVec.ofInt 49 (mul sgn level.toNat (paramInt volume))

end Sys2Proof.Machine
end

