-- ==== Sys2Proof/Machine/Voice.lean ====
section
/-! DEFINITION. The voice: the meanings of `NOTE_ON`, `NOTE_OFF` and `PROCESS` (spec/43_voice_and_multiplier.md rules
R122, R123, R124). -/

namespace Sys2Proof.Machine

/-- The block after `NOTE_ON pitch`: the new frequency, and the envelope restarted from Attack (R122). -/
def blockNoteOn (p : Int) (b : Block) : Block :=
  { b with osc := oscSetPitch p b.osc, env := envNoteOn b.env }

/-- The block after `NOTE_OFF`: the envelope in Release where it was in Attack, Decay or Sustain (R123). -/
def blockNoteOff (b : Block) : Block := { b with env := envNoteOff b.env }

/-- The block after one audio sample at the rate word `S >= 1`: both leaves advanced (R124, R127). -/
def blockProcess (S : Nat) (b : Block) : Block :=
  { b with osc := (oscProcess S b.osc).1, env := envProcess b.x S b.env }

/-- The sample that this advance gives: oscillator sign x envelope level x master volume (R124). -/
def blockSample (S : Nat) (b : Block) : SampleWord :=
  sampleWord (oscProcess S b.osc).2 (envProcess b.x S b.env).level b.x.masterVolume

/-- `NOTE_ON pitch` (R122). -/
def execNoteOn (pitch : ByteField) (s : State) : Host.Outcome State Fault Refusal :=
  .next (respondOk (blockNoteOn (pitchOperand pitch) s.blk) s)

/-- `NOTE_OFF` (R123). -/
def execNoteOff (s : State) : Host.Outcome State Fault Refusal :=
  .next (respondOk (blockNoteOff s.blk) s)

/-- `PROCESS rate` (R124): a rate of 0 or less raises `BAD_RATE` (R148); any other gives one sample on both channels
(R125). -/
def execProcess (rate : DataField) (s : State) : Host.Outcome State Fault Refusal :=
  if rateOperand rate ≤ 0 then .next (raise .badRate s)
  else
    .next (respond (blockProcess (rateOperand rate).toNat s.blk) .ok
      (blockSample (rateOperand rate).toNat s.blk) (blockSample (rateOperand rate).toNat s.blk) 0 s)

end Sys2Proof.Machine
end

