-- ==== Sys2Proof/Machine/Dispatch.lean ====
section
/-! DEFINITION. The dispatch of a decoded command to its meaning, one arm per constructor of `Instr`. -/

namespace Sys2Proof.Machine

def exec (i : Instr) (s : State) : Host.Outcome State Fault Refusal :=
  match i with
  | .noteOn pitch => Sys2Proof.Machine.execNoteOn pitch s
  | .noteOff => Sys2Proof.Machine.execNoteOff s
  | .process rate => Sys2Proof.Machine.execProcess rate s
  | .setParam id value => Sys2Proof.Machine.execSetParam id value s
  | .getParam id => Sys2Proof.Machine.execGetParam id s

end Sys2Proof.Machine
end

