-- ==== Sys2Proof/Machine/Step.lean ====
section
/-! DEFINITION. One step of the machine: the host's next input is taken, and the block answers it (spec/00_scope.md rules
R8, R9). A command word is decoded first (rules R60, R151); a legal one runs, an illegal one answers `ILLEGAL_CMD`. -/

namespace Sys2Proof.Machine

def step (s : State) : Host.Outcome State Fault Refusal :=
  match s.inputs with
  | [] => .next (noInput s)
  | .reset inFlight :: rest => .next (hostReset inFlight (takeInput rest s))
  | .command w :: rest =>
    match decode w with
    | .command i => exec i (takeInput rest s)
    | .illegal _ => .next (illegalCommand (takeInput rest s))

/-- `s` with the table's word as the host's very next command, before what the host had chosen already. -/
def State.withFetchWord (s : State) (nbits w : Nat) : State :=
  { s with inputs := .command (tableWord nbits w) :: s.inputs }

end Sys2Proof.Machine
end

