-- ==== Sys2Proof/Machine/Assembler.lean ====
section
/-! DEFINITION. The text form of commands (spec/30_encoding.md rule R65) and the document's other spellings of them (rule
R66). No step of the machine reads text: this is the spec's notation for the words a host presents. A line is a list
of characters; what R65 leaves open of the spelling is fixed in log entry 8. -/

namespace Sys2Proof.Machine

/-- Why a line is an assembler error. -/
inductive AsmError where
  /-- No command has this mnemonic, or the mnemonic has other operands. -/
  | badLine
  /-- An operand is not a number, a raw word or a name of the kind the command takes. -/
  | badOperand
  /-- A number that the operand's format does not hold exactly: "never rounded". -/
  | notExact
  /-- A number outside the operand's range. -/
  | outOfRange
  deriving DecidableEq, Repr

/-- A decimal number: `mantissa / 10 ^ scale`. -/
structure Decimal where
  mantissa : Int
  scale : Nat
  deriving DecidableEq, Repr

/-- The value of a decimal digit. -/
def digitValue (c : Char) : Option Nat := if '0' ≤ c ∧ c ≤ '9' then some (c.toNat - 48) else none

/-- The value of a hexadecimal digit of either case. -/
def hexValue (c : Char) : Option Nat :=
  if '0' ≤ c ∧ c ≤ '9' then some (c.toNat - 48)
  else if 'A' ≤ c ∧ c ≤ 'F' then some (c.toNat - 55)
  else if 'a' ≤ c ∧ c ≤ 'f' then some (c.toNat - 87)
  else none

/-- The number that the digits spell after `acc`, most significant digit first. -/
def digitsFrom (base : Nat) (digit : Char → Option Nat) (acc : Nat) : List Char → Option Nat
  | [] => some acc
  | c :: cs =>
    match digit c with
    | some d => digitsFrom base digit (acc * base + d) cs
    | none => none

/-- A natural number in decimal digits, at least one. -/
def parseNat (cs : List Char) : Option Nat := if cs = [] then none else digitsFrom 10 digitValue 0 cs

/-- A decimal integer, with a minus sign or none. -/
def parseInt (cs : List Char) : Option Int :=
  match cs with
  | '-' :: ds => (parseNat ds).map fun n => -(n : Int)
  | _ => (parseNat cs).map fun n => (n : Int)

/-- The digits of a decimal number without its sign: digits, or digits, a point and digits. -/
def parseUnsigned (cs : List Char) : Option Decimal :=
  match cs.dropWhile (· ≠ '.') with
  | [] => (parseNat cs).map fun n => { mantissa := n, scale := 0 }
  | _ :: fraction =>
    match parseNat (cs.takeWhile (· ≠ '.')), parseNat fraction with
    | some n, some f => some { mantissa := n * 10 ^ fraction.length + f, scale := fraction.length }
    | _, _ => none

/-- A decimal number, with a minus sign or none. -/
def parseDecimal (cs : List Char) : Option Decimal :=
  match cs with
  | '-' :: ds => (parseUnsigned ds).map fun d => { d with mantissa := -d.mantissa }
  | _ => parseUnsigned cs

/-- The 32-bit word with `fractionBits` fraction bits whose value is exactly the number; "A number that is not exactly
representable is an assembler error, never rounded" (R65). -/
def fixedWord (fractionBits : Nat) (d : Decimal) : Except AsmError DataField :=
  if (d.mantissa * 2 ^ fractionBits) % 10 ^ d.scale ≠ 0 then .error .notExact
  else if -2 ^ 31 ≤ (d.mantissa * 2 ^ fractionBits) / 10 ^ d.scale
      ∧ (d.mantissa * 2 ^ fractionBits) / 10 ^ d.scale ≤ 2 ^ 31 - 1 then
    .ok (BitVec.ofInt 32 ((d.mantissa * 2 ^ fractionBits) / 10 ^ d.scale))
  else .error .outOfRange

/-- An operand of a `rate` or a `value`: a decimal number, or a raw word `#0x` and 8 hexadecimal digits (R65). -/
def dataOperand (fractionBits : Nat) (cs : List Char) : Except AsmError DataField :=
  match cs with
  | '#' :: '0' :: 'x' :: ds =>
    match digitsFrom 16 hexValue 0 ds with
    | some n => if ds.length = 8 then .ok (BitVec.ofNat 32 n) else .error .badOperand
    | none => .error .badOperand
  | _ =>
    match parseDecimal cs with
    | some d => fixedWord fractionBits d
    | none => .error .badOperand

/-- A `pitch`: a decimal integer -128..127 (R65). -/
def pitchText (cs : List Char) : Except AsmError ByteField :=
  match parseInt cs with
  | some p => if -128 ≤ p ∧ p ≤ 127 then .ok (BitVec.ofInt 8 p) else .error .outOfRange
  | none => .error .badOperand

/-- The parameter names an `id` may be given by (R65). -/
def parameterNames : List (List Char × Nat) :=
  [("master_volume".toList, 0), ("attack_time".toList, 1), ("decay_time".toList, 2), ("sustain".toList, 3),
   ("release_time".toList, 4)]

/-- An `id`: a decimal integer 0..255 or a parameter name (R65). -/
def idText (cs : List Char) : Except AsmError ByteField :=
  match parameterNames.lookup cs with
  | some n => .ok (BitVec.ofNat 8 n)
  | none =>
    match parseInt cs with
    | some n => if 0 ≤ n ∧ n ≤ 255 then .ok (BitVec.ofInt 8 n) else .error .outOfRange
    | none => .error .badOperand

/-- The word after `.word`: `0x` and 12 hexadecimal digits (R65). -/
def rawCommand (cs : List Char) : Except AsmError CmdWord :=
  match cs with
  | '0' :: 'x' :: ds =>
    match digitsFrom 16 hexValue 0 ds with
    | some n => if ds.length = 12 then .ok (BitVec.ofNat 48 n) else .error .badOperand
    | none => .error .badOperand
  | _ => .error .badOperand

/-- The tokens of a line without its comment: runs of characters between blanks; a comma is a token of its own. `cur` is
the run being read. -/
def tokensFrom (cur : List Char) : List Char → List (List Char)
  | [] => if cur = [] then [] else [cur]
  | c :: cs =>
    if c = ' ' ∨ c = '\t' then (if cur = [] then [] else [cur]) ++ tokensFrom [] cs
    else if c = ',' then (if cur = [] then [] else [cur]) ++ [','] :: tokensFrom [] cs
    else tokensFrom (cur ++ [c]) cs

/-- The tokens of a line; a comment runs from `;` to the end of the line (R65). -/
def lineTokens (line : List Char) : List (List Char) := tokensFrom [] (line.takeWhile (· ≠ ';'))

/-- The word of a command with one operand. -/
def assembleUnary (mnemonic operand : List Char) : Except AsmError CmdWord :=
  if mnemonic = "note_on".toList then (pitchText operand).map fun p => encode (.noteOn p)
  else if mnemonic = "process".toList then (dataOperand 8 operand).map fun r => encode (.process r)
  else if mnemonic = "get_param".toList then (idText operand).map fun i => encode (.getParam i)
  else if mnemonic = ".word".toList then rawCommand operand
  else .error .badLine

/-- The word of `set_param <id>, <value>`. -/
def assembleSetParam (id value : List Char) : Except AsmError CmdWord :=
  match idText id, dataOperand 16 value with
  | .ok i, .ok v => .ok (encode (.setParam i v))
  | .error e, _ => .error e
  | .ok _, .error e => .error e

/-- The command word of one line (R65); none for a line without a command. -/
def assembleLine (line : List Char) : Except AsmError (Option CmdWord) :=
  match lineTokens line with
  | [] => .ok none
  | [m] => if m = "note_off".toList then .ok (some (encode .noteOff)) else .error .badLine
  | [m, a] => (assembleUnary m a).map some
  | [m, a, c, b] =>
    if m = "set_param".toList ∧ c = [','] then (assembleSetParam a b).map some else .error .badLine
  | _ => .error .badLine

/-- The command words of a text, one line after the other: "commands one per line" (R65). -/
def assemble : List (List Char) → Except AsmError (List CmdWord)
  | [] => .ok []
  | line :: rest =>
    match assembleLine line, assemble rest with
    | .ok (some w), .ok ws => .ok (w :: ws)
    | .ok none, .ok ws => .ok ws
    | .error e, _ => .error e
    | .ok _, .error e => .error e

/-- The document's calls on the voice and on its two leaves (the first column of rule R66). -/
inductive DocCall where
  | instrumentNoteOn (pitch : ByteField)
  | instrumentNoteOff
  | oscillatorSetPitch (pitch : ByteField)
  | envelopeSetStateAttack
  | envelopeSetStateRelease
  | oscillatorProcess (rate : DataField)
  | envelopeProcess (rate : DataField)
  deriving DecidableEq, Repr

/-- The command a call of the document expands to (R66); an internal operation has "no command of its own" and cannot be
issued from the command port (R67). -/
def DocCall.expansion : DocCall → Option Instr
  | .instrumentNoteOn pitch => some (.noteOn pitch)
  | .instrumentNoteOff => some .noteOff
  | .oscillatorSetPitch _ => none
  | .envelopeSetStateAttack => none
  | .envelopeSetStateRelease => none
  | .oscillatorProcess _ => none
  | .envelopeProcess _ => none

end Sys2Proof.Machine
end

