-- ==== Sys2Proof/Machine/Values.lean ====
section
/-! DEFINITION. What the words mean in their units (spec/00_scope.md rule R12; spec/10_state.md rules R22, R24, R25, R29,
R30). The machine computes on the raw words only; these exact rationals are for statements. -/

namespace Sys2Proof.Machine

/-- The value of an unsigned word of `n` fraction bits (R12). -/
def uqValue (n raw : Nat) : ℚ := (raw : ℚ) / 2 ^ n

/-- The value of a two's complement word of `n` fraction bits (R12). -/
def sqValue (n : Nat) (raw : Int) : ℚ := (raw : ℚ) / 2 ^ n

/-- A parameter register's value, SQ15.16: a gain, a level or seconds (R22). -/
def paramValue (w : ParamWord) : ℚ := sqValue 16 w.toInt
/-- A sample rate in Hz, SQ23.8 (R59). -/
def rateValue (w : DataField) : ℚ := sqValue 8 w.toInt
/-- A phase in cycles, UQ0.32 (R24). -/
def phaseValue (w : PhaseWord) : ℚ := uqValue 32 w.toNat
/-- A frequency in Hz, UQ14.40 (R25). -/
def freqValue (w : FreqWord) : ℚ := uqValue 40 w.toNat
/-- An entry of the pitch table in Hz, UQ14.18 (R76). -/
def tableValue (w : TableWord) : ℚ := uqValue 18 w.toNat
/-- A level, UQ1.16 (R29). -/
def levelValue (w : LevelWord) : ℚ := uqValue 16 w.toNat
/-- An elapsed time in seconds, UQ16.32 (R30). -/
def elapsedValue (w : ElapsedWord) : ℚ := uqValue 32 w.toNat
/-- An output sample, SQ16.32 (R121). -/
def sampleValue (w : SampleWord) : ℚ := sqValue 32 w.toInt

end Sys2Proof.Machine
end

