-- ==== Sys2Proof/Safety.lean ====
section
/-! DEFINITION. What holds of the block after reset and after every step, in the terms the statements use. The block has
no fault (spec/60_exceptions.md rule R146), so a safe run is one whose states keep these. -/

namespace Sys2Proof.Machine

/-- The envelope invariants (a) to (e) of spec/10_state.md rule R32. (c), that the tag is one of five, holds by its type. -/
structure EnvInv (e : Envelope) : Prop where
  level_le : e.level.toNat ≤ 65536
  relStart_le : e.relStart.toNat ≤ 65536
  elapsed_lt : e.elapsed.toNat < 2 ^ 47
  elapsed_idle : e.state = .idle → e.elapsed = 0
  elapsed_sustain : e.state = .sustain → e.elapsed = 0
  level_idle : e.state = .idle → e.level = 0

/-- The oscillator invariant of rules R25 and R26: the frequency is 0 before any pitch is set, and `P2F` of a pitch
after; before, the phase does not move from 0. -/
structure OscInv (o : Oscillator) : Prop where
  freq_set : o.freq = 0 ∨ ∃ p : ByteField, o.freq.toNat = p2f (pitchOperand p)
  phase_unset : o.freq = 0 → o.phase = 0

/-- A response as rules R62, R121 and R125 allow it: both channels carry the same word; a sample is within 2^47 of 0;
every field is 0 when the command failed; no response carries both a sample and a value. -/
structure ResponseInv (r : Response) : Prop where
  right_eq : r.right = r.left
  left_bound : r.left.toInt.natAbs ≤ 2 ^ 47
  error_zero : r.status ≠ .ok → r.left = 0 ∧ r.value = 0
  one_payload : r.left = 0 ∨ r.value = 0

/-- The invariants of the machine's state together. -/
structure Inv (s : State) : Prop where
  env : EnvInv s.blk.env
  osc : OscInv s.blk.osc
  port : ∀ r, s.rsp = some r → ResponseInv r

/-- The command a host input presents, if its word decodes to one (R60). -/
def HostInput.instr? : HostInput → Option Instr
  | .command w => (decode w).command?
  | .reset _ => none

/-- The host asserts reset (R165). -/
def HostInput.isReset : HostInput → Bool
  | .command _ => false
  | .reset _ => true

/-- `n` steps, stopping at the first step that gives no next state (none does: R146). -/
def runSteps : Nat → State → Host.Outcome State Fault Refusal
  | 0, s => .next s
  | n + 1, s =>
    match step s with
    | .next t => runSteps n t
    | .fault r => .fault r
    | .refused r => .refused r

end Sys2Proof.Machine
end

