-- ==== Sys2Proof/Certificates/Slice0/Obligations.lean ====
section
/-! DEFINITION. The statements about the block. Each docstring names the rule of spec/ it formalises. `rate.toInt = S` is
"`S = sext_32(d32)`" (rule R59): `S` is the rate word as the integer the rules compute with. -/

open Sys2Proof Sys2Proof.Machine

/-! ## Reset and the step -/

/-- R36: "After reset every state element is zero", element by element. -/
def Obligations.ResetZeroesEveryElement : Prop :=
  State.reset.blk.x.masterVolume = 0 ∧ State.reset.blk.x.attackTime = 0 ∧ State.reset.blk.x.decayTime = 0 ∧
  State.reset.blk.x.sustain = 0 ∧ State.reset.blk.x.releaseTime = 0 ∧
  State.reset.blk.osc.phase = 0 ∧ State.reset.blk.osc.freq = 0 ∧
  State.reset.blk.env.state = .idle ∧ EnvState.idle.code = 0 ∧ State.reset.blk.env.level = 0 ∧
  State.reset.blk.env.elapsed = 0 ∧ State.reset.blk.env.relStart = 0

/-- R165 at transaction level: reset maps every state to the reset state and abandons a command in flight without a
response and without effect. That the host's later inputs stay is the model's choice (log entry 4). -/
def Obligations.HostResetMapsEveryStateToReset : Prop :=
  ∀ (s : State) (inFlight : Option CmdWord) (rest : List HostInput),
    s.inputs = .reset inFlight :: rest →
    ∃ t, step s = .next t ∧
      t.blk.x.masterVolume = 0 ∧ t.blk.x.attackTime = 0 ∧ t.blk.x.decayTime = 0 ∧ t.blk.x.sustain = 0 ∧
      t.blk.x.releaseTime = 0 ∧ t.blk.osc.phase = 0 ∧ t.blk.osc.freq = 0 ∧ t.blk.env.state = .idle ∧
      t.blk.env.level = 0 ∧ t.blk.env.elapsed = 0 ∧ t.blk.env.relStart = 0 ∧
      t.rsp = none ∧ t.inputs = rest

/-- A step runs the decoded command on the state whose host input has been taken. -/
def Obligations.StepRunsTheDecodedCommand : Prop :=
  ∀ (s : State) (w : CmdWord) (rest : List HostInput) (i : Instr),
    s.inputs = .command w :: rest → decode w = .command i → i.wellFormed = true →
    step s = exec i { s with inputs := rest }

/-- The model's choice of log entry 3 (R8: "Between steps no state changes"): where the host presents nothing, no element
of the block changes and no response stands on the port. -/
def Obligations.NothingPresentedChangesNoElement : Prop :=
  ∀ s : State, s.inputs = [] → step s = .next { s with rsp := none }

/-- The very next step after `withFetchWord` runs the command of the table's word (the model's reading, log entry 1). -/
def Obligations.PlacedWordRunsNext : Prop :=
  ∀ (s : State) (nbits w : Nat) (i : Instr), decodeTableWord nbits w = some i →
    step (s.withFetchWord nbits w) = exec i s

/-! ## Encoding -/

/-- Words written out from R58 decode to the commands they stand for. -/
def Obligations.SampleWordsDecode : Prop :=
  decode 0x104500000000 = .command (.noteOn 69) ∧
  decode 0x10FF00000000 = .command (.noteOn (BitVec.ofInt 8 (-1))) ∧
  decode 0x200000000000 = .command .noteOff ∧
  decode 0x300000AC4400 = .command (.process 11289600) ∧
  decode 0x4003FFFF0000 = .command (.setParam 3 0xFFFF0000) ∧
  decode 0x500300000000 = .command (.getParam 3)

/-- R58: the `match`/`mask` table with the operand bits of each format, for every word; and every word of no format is
illegal (R60). -/
def Obligations.DecodingFollowsMatchAndMask : Prop :=
  ∀ w : CmdWord,
    (∀ pitch, decode w = .command (.noteOn pitch) ↔
      w &&& 0xFF00FFFFFFFF = 0x100000000000 ∧ pitch = w.extractLsb' 32 8) ∧
    (decode w = .command .noteOff ↔ w &&& 0xFFFFFFFFFFFF = 0x200000000000) ∧
    (∀ rate, decode w = .command (.process rate) ↔
      w &&& 0xFFFF00000000 = 0x300000000000 ∧ rate = w.extractLsb' 0 32) ∧
    (∀ id value, decode w = .command (.setParam id value) ↔
      w &&& 0xFF0000000000 = 0x400000000000 ∧ id = w.extractLsb' 32 8 ∧ value = w.extractLsb' 0 32) ∧
    (∀ id, decode w = .command (.getParam id) ↔
      w &&& 0xFF00FFFFFFFF = 0x500000000000 ∧ id = w.extractLsb' 32 8) ∧
    ((∃ why, decode w = .illegal why) ↔
      w &&& 0xFF00FFFFFFFF ≠ 0x100000000000 ∧ w &&& 0xFFFFFFFFFFFF ≠ 0x200000000000 ∧
      w &&& 0xFFFF00000000 ≠ 0x300000000000 ∧ w &&& 0xFF0000000000 ≠ 0x400000000000 ∧
      w &&& 0xFF00FFFFFFFF ≠ 0x500000000000)

/-- Decoding what was encoded gives every command back, whatever its operands. -/
def Obligations.DecodeOfEncodeIsTheCommand : Prop :=
  ∀ i : Instr, i.wellFormed = true → decode (encode i) = .command i

/-- A legal word is the encoding of the command it decodes to: each command has one word. -/
def Obligations.EncodeOfDecodeIsTheWord : Prop :=
  ∀ (w : CmdWord) (i : Instr), decode w = .command i → encode i = w

/-- R61: which words are illegal, and that an illegal word changes no state and is answered with `ILLEGAL_CMD`. -/
def Obligations.IllegalWordsAnswerIllegalCmd : Prop :=
  (∀ w : CmdWord,
    (∃ why, decode w = .illegal why) ↔
      (w.extractLsb' 40 4 ≠ 0 ∨ w.extractLsb' 44 4 = 0 ∨ 6 ≤ (w.extractLsb' 44 4).toNat ∨
       ((w.extractLsb' 44 4 = 1 ∨ w.extractLsb' 44 4 = 5) ∧ w.extractLsb' 0 32 ≠ 0) ∨
       (w.extractLsb' 44 4 = 2 ∧ (w.extractLsb' 32 8 ≠ 0 ∨ w.extractLsb' 0 32 ≠ 0)) ∨
       (w.extractLsb' 44 4 = 3 ∧ w.extractLsb' 32 8 ≠ 0))) ∧
  (∀ (s : State) (w : CmdWord) (rest : List HostInput),
    s.inputs = .command w :: rest → (∃ why, decode w = .illegal why) →
    ∃ t, step s = .next t ∧ t.blk = s.blk ∧ t.rsp = some ⟨.illegalCmd, 0, 0, 0⟩ ∧ t.inputs = rest) ∧
  (∀ (id : ByteField) (value : DataField), 5 ≤ id.toNat →
    decode (encode (.setParam id value)) = .command (.setParam id value) ∧
    decode (encode (.getParam id)) = .command (.getParam id)) ∧
  (∀ rate : DataField, rate.toInt ≤ 0 → decode (encode (.process rate)) = .command (.process rate)) ∧
  (∃ why, decode 0 = .illegal why) ∧ (∃ why, decode (BitVec.allOnes 48) = .illegal why)

/-- The codes of R63 and R28, and that the other codes name nothing. -/
def Obligations.StatusAndStateCodes : Prop :=
  Status.ok.code = 0 ∧ Status.unknownParam.code = 1 ∧ Status.badRate.code = 2 ∧ Status.illegalCmd.code = 3 ∧
  EnvState.idle.code = 0 ∧ EnvState.attack.code = 1 ∧ EnvState.decay.code = 2 ∧ EnvState.sustain.code = 3 ∧
  EnvState.release.code = 4 ∧
  (∀ c : StatusCode, 4 ≤ c.toNat ↔ ∀ e : Status, e.code ≠ c) ∧
  (∀ c : StateCode, 5 ≤ c.toNat ↔ ∀ e : EnvState, e.code ≠ c) ∧
  (∀ e : Status, Status.ofCode e.code = some e) ∧ (∀ e : EnvState, EnvState.ofCode e.code = some e)

/-- R65, "A number that is not exactly representable is an assembler error, never rounded": a decimal operand gives the
word whose value it is exactly, and gives one whenever there is one. -/
def Obligations.AssemblerNeverRounds : Prop :=
  ∀ (fractionBits : Nat) (d : Decimal) (w : DataField),
    fixedWord fractionBits d = .ok w ↔ w.toInt * 10 ^ d.scale = d.mantissa * 2 ^ fractionBits

/-! ## Responses and errors -/

/-- R62: every command is answered by one response of four fields, as the table of R62 has it; the formats are those of
R58. The sample is R124's, of the state the step leaves. -/
def Obligations.ResponsesFollowTheTable : Prop :=
  ∀ (s : State) (w : CmdWord) (rest : List HostInput), s.inputs = .command w :: rest →
    ∃ (t : State) (r : Response), step s = .next t ∧ t.rsp = some r ∧ t.inputs = rest ∧
      (formatN.admits w = true → r = ⟨.ok, 0, 0, 0⟩) ∧
      (formatZ.admits w = true → r = ⟨.ok, 0, 0, 0⟩) ∧
      (formatR.admits w = true → 1 ≤ (w.extractLsb' 0 32).toInt →
        r.status = .ok ∧ r.right = r.left ∧ r.value = 0 ∧
        r.left.toInt = (if t.blk.osc.phase.toNat < 2 ^ 31 then 1 else -1) * (t.blk.env.level.toNat : Int) *
          s.blk.x.masterVolume.toInt) ∧
      (formatR.admits w = true → (w.extractLsb' 0 32).toInt ≤ 0 → r = ⟨.badRate, 0, 0, 0⟩) ∧
      (formatS.admits w = true → (w.extractLsb' 32 8).toNat ≤ 4 → r = ⟨.ok, 0, 0, 0⟩) ∧
      (formatS.admits w = true → 5 ≤ (w.extractLsb' 32 8).toNat → r = ⟨.unknownParam, 0, 0, 0⟩) ∧
      (formatG.admits w = true → ∀ p : Param, (w.extractLsb' 32 8).toNat = p.id →
        r = ⟨.ok, 0, 0, s.blk.x.read p⟩) ∧
      (formatG.admits w = true → 5 ≤ (w.extractLsb' 32 8).toNat → r = ⟨.unknownParam, 0, 0, 0⟩) ∧
      (legalWord w = false → r = ⟨.illegalCmd, 0, 0, 0⟩)

/-- R146: every command is total, and an error changes nothing. -/
def Obligations.ErrorsChangeNothing : Prop :=
  ∀ (s : State) (w : CmdWord) (rest : List HostInput), s.inputs = .command w :: rest →
    ∃ (t : State) (r : Response), step s = .next t ∧ t.rsp = some r ∧ t.inputs = rest ∧
      (r.status ≠ .ok → t.blk = s.blk ∧ r.left = 0 ∧ r.right = 0 ∧ r.value = 0)

/-- R146, R154: "The block never stops accepting commands, has no halted or faulted state": no step of any run faults or
refuses, whatever the host presents, from every state. The clause on the inputs, and that a run longer than the inputs has
steps at all, is the MODEL'S CHOICE, not the spec's: the host's choices stand in a list of which a step takes the first
(log entry 1), a step past the last input exists and takes nothing (log entry 3), and the inputs after a reset stay (log entry 4). -/
def Obligations.EveryRunGoesOn : Prop :=
  ∀ (n : Nat) (s : State), ∃ t, runSteps n s = .next t ∧ t.inputs = s.inputs.drop n

/-- R35: the elements a command does not write are unchanged by it. -/
def Obligations.EachCommandWritesOnlyItsElements : Prop :=
  (∀ (pitch : ByteField) (s : State), ∃ t, exec (.noteOn pitch) s = .next t ∧ t.inputs = s.inputs ∧
    t.blk.x = s.blk.x ∧ t.blk.osc.phase = s.blk.osc.phase ∧ t.blk.env.relStart = s.blk.env.relStart) ∧
  (∀ s : State, ∃ t, exec .noteOff s = .next t ∧ t.inputs = s.inputs ∧
    t.blk.x = s.blk.x ∧ t.blk.osc = s.blk.osc ∧ t.blk.env.level = s.blk.env.level ∧
    (s.blk.env.state = .idle ∨ s.blk.env.state = .release → t.blk = s.blk)) ∧
  (∀ (rate : DataField) (s : State), ∃ t, exec (.process rate) s = .next t ∧ t.inputs = s.inputs ∧
    t.blk.x = s.blk.x ∧ t.blk.osc.freq = s.blk.osc.freq ∧ t.blk.env.relStart = s.blk.env.relStart ∧
    (rate.toInt ≤ 0 → t.blk = s.blk)) ∧
  (∀ (id : ByteField) (value : DataField) (s : State), ∃ t, exec (.setParam id value) s = .next t ∧
    t.inputs = s.inputs ∧ t.blk.osc = s.blk.osc ∧ t.blk.env = s.blk.env ∧
    (∀ p : Param, p.id ≠ id.toNat → t.blk.x.read p = s.blk.x.read p) ∧ (5 ≤ id.toNat → t.blk = s.blk)) ∧
  (∀ (id : ByteField) (s : State), ∃ t, exec (.getParam id) s = .next t ∧ t.inputs = s.inputs ∧ t.blk = s.blk) ∧
  (∀ (s : State) (w : CmdWord) (rest : List HostInput), s.inputs = .command w :: rest → legalWord w = false →
    ∃ t, step s = .next t ∧ t.inputs = rest ∧ t.blk = s.blk) ∧
  (∀ (s t : State) (r : Response) (w : CmdWord) (rest : List HostInput), s.inputs = .command w :: rest →
    step s = .next t → t.rsp = some r → r.status ≠ .ok → t.blk = s.blk)

/-! ## The commands -/

/-- R122: `NOTE_ON` sets the frequency and restarts the envelope from Attack; nothing else is written. -/
def Obligations.NoteOnSetsPitchAndRestartsAttack : Prop :=
  (∀ (pitch : ByteField) (s : State), ∃ t, exec (.noteOn pitch) s = .next t ∧
    t.blk.osc.freq.toNat = p2f pitch.toInt ∧ t.blk.osc.phase = s.blk.osc.phase ∧
    t.blk.env.state = .attack ∧ t.blk.env.elapsed = 0 ∧ t.blk.env.level = 0 ∧
    t.blk.env.relStart = s.blk.env.relStart ∧ t.blk.x = s.blk.x ∧
    t.rsp = some ⟨.ok, 0, 0, 0⟩ ∧ t.inputs = s.inputs) ∧
  (∀ pitch : ByteField, formatN.admits (encode (.noteOn pitch)) = true ∧ opField (encode (.noteOn pitch)) = 1) ∧
  p2f 69 = 0x1B80000000000 ∧ encode (.noteOn 69) = 0x104500000000 ∧
  encode (.noteOn (BitVec.ofInt 8 (-1))) = 0x10FF00000000

/-- R123: `NOTE_OFF` forces the envelope into Release from Attack, Decay or Sustain, at the level it holds, and does
nothing in Idle and Release; it answers `OK` in every state and leaves the oscillator alone. -/
def Obligations.NoteOffBeginsReleaseAtTheHeldLevel : Prop :=
  encode .noteOff = 0x200000000000 ∧ formatZ.admits (encode .noteOff) = true ∧ opField (encode .noteOff) = 2 ∧
  ∀ s : State, ∃ t, exec .noteOff s = .next t ∧
    (s.blk.env.state = .attack ∨ s.blk.env.state = .decay ∨ s.blk.env.state = .sustain →
      t.blk.env.state = .release ∧ t.blk.env.relStart = s.blk.env.level ∧ t.blk.env.elapsed = 0 ∧
      t.blk.env.level = s.blk.env.level) ∧
    (s.blk.env.state = .idle ∨ s.blk.env.state = .release → t.blk.env = s.blk.env) ∧
    t.blk.osc = s.blk.osc ∧ t.blk.x = s.blk.x ∧ t.rsp = some ⟨.ok, 0, 0, 0⟩ ∧ t.inputs = s.inputs

/-- R124 with R88 and R121: for `S >= 1`, `PROCESS` advances both leaves and answers, on both channels, the sign of the
ADVANCED phase times the NEW level times the master volume; for `S <= 0` it answers `BAD_RATE` and writes nothing. -/
def Obligations.ProcessGivesOneSampleOnBothChannels : Prop :=
  (∀ (rate : DataField) (S : Nat) (s : State), 1 ≤ S → rate.toInt = S →
    ∃ (t : State) (out : SampleWord), exec (.process rate) s = .next t ∧
      t.blk.osc.phase.toNat = (s.blk.osc.phase.toNat + s.blk.osc.freq.toNat / S) % 2 ^ 32 ∧
      t.blk.osc.freq = s.blk.osc.freq ∧ t.blk.x = s.blk.x ∧
      t.blk.env = envProcess s.blk.x S s.blk.env ∧ t.blk.env.relStart = s.blk.env.relStart ∧
      out.toInt = (if t.blk.osc.phase.toNat < 2 ^ 31 then 1 else -1) * (t.blk.env.level.toNat : Int) *
        s.blk.x.masterVolume.toInt ∧
      t.rsp = some ⟨.ok, out, out, 0⟩ ∧ t.inputs = s.inputs) ∧
  (∀ (rate : DataField) (s : State), rate.toInt ≤ 0 →
    exec (.process rate) s = .next { s with rsp := some ⟨.badRate, 0, 0, 0⟩ }) ∧
  (∀ rate : DataField, formatR.admits (encode (.process rate)) = true ∧ opField (encode (.process rate)) = 3)

/-- R148: which rate words raise `BAD_RATE`, and that every `S >= 1` is accepted. -/
def Obligations.BadRateExactlyForZeroOrNegativeRates : Prop :=
  ∀ (rate : DataField) (s : State),
    (rate = 0 ∨ rate.msb = true → exec (.process rate) s = .next { s with rsp := some ⟨.badRate, 0, 0, 0⟩ }) ∧
    (rate ≠ 0 → rate.msb = false → ∃ (t : State) (r : Response),
      exec (.process rate) s = .next t ∧ t.rsp = some r ∧ r.status = .ok)

/-- R137 and R140: `SET_PARAM` stores the word bit for bit in the one register of its id and touches nothing else; an id
of 5 or more answers `UNKNOWN_PARAM` and writes nothing. -/
def Obligations.SetParamWritesExactlyOneRegister : Prop :=
  ∀ (id : ByteField) (value : DataField) (s : State),
    (id.toNat ≤ 4 → ∃ t, exec (.setParam id value) s = .next t ∧
      (∀ p : Param, t.blk.x.read p = if p.id = id.toNat then value else s.blk.x.read p) ∧
      t.blk.osc = s.blk.osc ∧ t.blk.env = s.blk.env ∧ t.rsp = some ⟨.ok, 0, 0, 0⟩ ∧ t.inputs = s.inputs) ∧
    (5 ≤ id.toNat → exec (.setParam id value) s = .next { s with rsp := some ⟨.unknownParam, 0, 0, 0⟩ }) ∧
    formatS.admits (encode (.setParam id value)) = true ∧ opField (encode (.setParam id value)) = 4

/-- R138: `GET_PARAM` answers the word as stored and writes nothing; an id of 5 or more answers `UNKNOWN_PARAM`. -/
def Obligations.GetParamAnswersTheStoredWord : Prop :=
  ∀ (id : ByteField) (s : State),
    (∀ p : Param, id.toNat = p.id →
      exec (.getParam id) s = .next { s with rsp := some ⟨.ok, 0, 0, s.blk.x.read p⟩ }) ∧
    (5 ≤ id.toNat → exec (.getParam id) s = .next { s with rsp := some ⟨.unknownParam, 0, 0, 0⟩ }) ∧
    formatG.admits (encode (.getParam id)) = true ∧ opField (encode (.getParam id)) = 5

/-- The id check of R136 and the bijection of R21: 0..4 name the five parameters, any other id names none. -/
def Obligations.ParameterIdsMapBijectively : Prop :=
  (∀ id : Nat, id ≤ 4 → ∃ p : Param, paramOf id = some p ∧ p.id = id) ∧
  (∀ id : Nat, 5 ≤ id → paramOf id = none) ∧
  (∀ p : Param, paramOf p.id = some p) ∧
  Param.masterVolume.id = 0 ∧ Param.attackTime.id = 1 ∧ Param.decayTime.id = 2 ∧ Param.sustain.id = 3 ∧
  Param.releaseTime.id = 4

/-- R139: what `SET_PARAM i, v` stored is what `GET_PARAM i` answers, whatever other commands stand between; and only
`SET_PARAM i` and reset change `x[i]`. -/
def Obligations.StoredParameterReadsBack : Prop :=
  (∀ (id : ByteField) (v : DataField) (s : State) (between tail : List HostInput), id.toNat ≤ 4 →
    (∀ h ∈ between, h.isReset = false ∧ ∀ u, h.instr? ≠ some (.setParam id u)) →
    s.inputs = .command (encode (.setParam id v)) :: (between ++ .command (encode (.getParam id)) :: tail) →
    ∃ t, runSteps (between.length + 2) s = .next t ∧ t.rsp = some ⟨.ok, 0, 0, v⟩ ∧ t.inputs = tail) ∧
  (∀ (s t : State) (p : Param), step s = .next t → t.blk.x.read p ≠ s.blk.x.read p →
    (∃ inFlight rest, s.inputs = .reset inFlight :: rest) ∨
    (∃ w rest id v, s.inputs = .command w :: rest ∧ decode w = .command (.setParam id v) ∧ id.toNat = p.id ∧
      t.blk.x.read p = v))

/-! ## Pitch -/

/-- R76: each table entry is the nearest integer to the frequency of its note, `f(116 + i) = 440 * 2^((47 + i)/12)` Hz,
in units of 2^-18 Hz. -/
def Obligations.PitchTableIsRoundedToNearest : Prop :=
  ∀ i : Fin 12,
    |((pitchTable[i]).toNat : ℝ) - 440 * (2 : ℝ) ^ (((47 : ℝ) + (i.val : ℝ)) / 12) * 2 ^ 18| < 1 / 2

/-- R79: the relative error of `P2F` against the ideal frequency `f(p)` of R75 is at most 2.1 * 10^-10. -/
def Obligations.PitchAccuracy : Prop :=
  ∀ p : Int, -128 ≤ p → p ≤ 127 →
    |(p2f p : ℝ) / 2 ^ 40 - 440 * (2 : ℝ) ^ (((p : ℝ) - 69) / 12)| / (440 * (2 : ℝ) ^ (((p : ℝ) - 69) / 12))
      ≤ 21 / 100000000000

/-- R78: (a) octaves double; (b) the octaves of note 69 are exact; (c) `P2F` is strictly increasing. -/
def Obligations.PitchLaws : Prop :=
  (∀ p : Int, -128 ≤ p → p ≤ 115 → p2f (p + 12) = 2 * p2f p) ∧
  (∀ k : Int, -16 ≤ k → k ≤ 4 → (p2f (69 + 12 * k) : ℚ) / 2 ^ 40 = 440 * (2 : ℚ) ^ k) ∧
  (∀ p q : Int, -128 ≤ p → p < q → q ≤ 127 → p2f p < p2f q) ∧
  (∀ i j : Fin 12, i < j → (pitchTable[i]).toNat < (pitchTable[j]).toNat) ∧
  (pitchTable[(11 : Fin 12)]).toNat = 3288296050 ∧ 2 * (pitchTable[(0 : Fin 12)]).toNat = 3483828308 ∧
  (pitchTable[(11 : Fin 12)]).toNat < 2 * (pitchTable[(0 : Fin 12)]).toNat

/-- R80: the range of `P2F`, with the two ends, their values in Hz to the digits given, and that every result is
positive and fits the 54-bit register (R77). -/
def Obligations.PitchRange : Prop :=
  (∀ p : Int, -128 ≤ p → p ≤ 127 → 0 < p2f p ∧ 5530232722 ≤ p2f p ∧ p2f p ≤ 13792113275699200 ∧ p2f p < 2 ^ 54) ∧
  p2f (-128) = 5530232722 ∧ semitonesBelowTop (-128) = 255 ∧ octaveBelowTop (-128) = 21 ∧ octaveIndex (-128) = 8 ∧
  p2f (-128) = (pitchTable[(8 : Fin 12)]).toNat * 2 ^ 1 ∧
  |(p2f (-128) : ℚ) / 2 ^ 40 - 502971736 / 10 ^ 11| < 1 / 10 ^ 11 ∧
  p2f 127 = 13792113275699200 ∧ p2f 127 = (pitchTable[(11 : Fin 12)]).toNat * 2 ^ 22 ∧
  |(p2f 127 : ℚ) / 2 ^ 40 - 125438539505 / 10 ^ 7| < 1 / 10 ^ 7

/-- R81: the corner cases of `P2F`, with the intermediate values `d`, `oct`, `r` and `idx` that the rule gives. -/
def Obligations.PitchCornerCases : Prop :=
  (semitonesBelowTop 127 = 0 ∧ octaveBelowTop 127 = 0 ∧ octaveIndex 127 = 11) ∧
  (semitonesBelowTop 116 = 11 ∧ octaveBelowTop 116 = 0 ∧ octaveIndex 116 = 0) ∧
  (semitonesBelowTop 115 = 12 ∧ octaveBelowTop 115 = 1 ∧ octaveIndex 115 = 11) ∧
  (semitonesBelowTop (-128) = 255 ∧ octaveBelowTop (-128) = 21 ∧ octaveIndex (-128) = 8) ∧
  (semitonesBelowTop 0 = 127 ∧ octaveBelowTop 0 = 10 ∧ semitonesBelowTop 0 % 12 = 7 ∧ octaveIndex 0 = 4 ∧
    p2f 0 = 2194674310 * 2 ^ 12 ∧ p2f 0 = 8989385973760 ∧
    |(p2f 0 : ℚ) / 2 ^ 40 - 81757989 / 10 ^ 7| < 1 / 10 ^ 7) ∧
  (semitonesBelowTop 60 = 67 ∧ octaveBelowTop 60 = 5 ∧ semitonesBelowTop 60 % 12 = 7 ∧ octaveIndex 60 = 4 ∧
    p2f 60 = 2194674310 * 2 ^ 17 ∧ p2f 60 = 287660351160320 ∧
    |(p2f 60 : ℚ) / 2 ^ 40 - 2616255653 / 10 ^ 7| < 1 / 10 ^ 7)

/-- R92 (a) and (b): once a pitch is set the increment is at least 2 before the reduction, the least value taken at the
lowest pitch and the highest rate; at or above the sample rate the quotient reaches 2^32 and its low 32 bits are the
increment, so that 440 Hz at 440.0 Hz does not move the phase. -/
def Obligations.IncrementBounds : Prop :=
  (∀ (p : Int) (S : Nat), -128 ≤ p → p ≤ 127 → 1 ≤ S → S ≤ 2 ^ 31 - 1 → 2 ≤ p2f p / S) ∧
  p2f (-128) / (2 ^ 31 - 1) = 2 ∧
  (∀ (freq : FreqWord) (S : Nat), 1 ≤ S →
    (oscInc freq S).toNat = freq.toNat / S % 2 ^ 32 ∧
    (2 ^ 32 ≤ freq.toNat / S ↔ uqValue 8 S ≤ freqValue freq)) ∧
  oscInc (BitVec.ofNat 54 (p2f 69)) 112640 = 0

/-! ## The envelope -/

/-- R98: a ramp runs between its start, included, and its target, excluded, and the attack's is `floor(E / T)`. -/
def Obligations.RampStaysBetweenStartAndTarget : Prop :=
  ∀ start target E T : Nat, start ≤ 65536 → target ≤ 65536 → 1 ≤ T → E < T * 2 ^ 16 →
    (start ≤ target → ramp start target E T = start + (target - start) * E / (T * 2 ^ 16)) ∧
    (target < start → ramp start target E T = start - (start - target) * E / (T * 2 ^ 16)) ∧
    (start < target → start ≤ ramp start target E T ∧ ramp start target E T < target) ∧
    (target < start → target < ramp start target E T ∧ ramp start target E T ≤ start) ∧
    (start = target → ramp start target E T = start) ∧
    ramp 0 65536 E T = E / T

/-- R103: the time step is the sample period floored to 2^-32 s, between 512 and 2^40. -/
def Obligations.SampleTimeIsTheFlooredPeriod : Prop :=
  (∀ S : Nat, 1 ≤ S → S ≤ 2 ^ 31 - 1 → 512 ≤ sampleTime S ∧ sampleTime S ≤ 2 ^ 40 ∧
    uqValue 32 (sampleTime S) ≤ 1 / uqValue 8 S ∧ 1 / uqValue 8 S < uqValue 32 (sampleTime S + 1)) ∧
  sampleTime (2 ^ 31 - 1) = 512 ∧ sampleTime 1 = 2 ^ 40

/-- R104, R161: in Idle a sample leaves the envelope at level 0 and unmoved, is silent, and still advances the phase. -/
def Obligations.IdleIsSilentAndThePhaseRunsOn : Prop :=
  ∀ (rate : DataField) (S : Nat) (s : State), 1 ≤ S → rate.toInt = S → s.blk.env.state = .idle →
    ∃ t, exec (.process rate) s = .next t ∧ t.rsp = some ⟨.ok, 0, 0, 0⟩ ∧
      t.blk.env.level = 0 ∧ t.blk.env.state = .idle ∧ t.blk.env.elapsed = s.blk.env.elapsed ∧
      t.blk.env.relStart = s.blk.env.relStart ∧
      t.blk.osc.phase.toNat = (s.blk.osc.phase.toNat + s.blk.osc.freq.toNat / S) % 2 ^ 32 ∧
      t.blk.osc.freq = s.blk.osc.freq ∧ t.blk.x = s.blk.x

/-- R105: the arm `ATTACK`, with `E` the advanced elapsed time and `A` the effective attack time. -/
def Obligations.AttackArm : Prop :=
  ∀ (rate : DataField) (S E A : Nat) (s : State), 1 ≤ S → rate.toInt = S → s.blk.env.state = .attack →
    E = s.blk.env.elapsed.toNat + 2 ^ 40 / S → (A : Int) = max s.blk.x.attackTime.toInt 0 →
    ∃ t, exec (.process rate) s = .next t ∧ t.blk.env.relStart = s.blk.env.relStart ∧
      (A * 2 ^ 16 ≤ E →
        t.blk.env.level.toNat = 65536 ∧ t.blk.env.state = .decay ∧ t.blk.env.elapsed.toNat = 0) ∧
      (E < A * 2 ^ 16 →
        t.blk.env.level.toNat = ramp 0 65536 E A ∧ t.blk.env.level.toNat = E / A ∧
        t.blk.env.level.toNat ≤ 65535 ∧ t.blk.env.state = .attack ∧ t.blk.env.elapsed.toNat = E)

/-- R106: the arm `DECAY`, with `D` the effective decay time and `L` the effective sustain level. -/
def Obligations.DecayArm : Prop :=
  ∀ (rate : DataField) (S E D L : Nat) (s : State), 1 ≤ S → rate.toInt = S → s.blk.env.state = .decay →
    E = s.blk.env.elapsed.toNat + 2 ^ 40 / S → (D : Int) = max s.blk.x.decayTime.toInt 0 →
    (L : Int) = min (max s.blk.x.sustain.toInt 0) 65536 →
    ∃ t, exec (.process rate) s = .next t ∧ t.blk.env.relStart = s.blk.env.relStart ∧
      (D * 2 ^ 16 ≤ E →
        t.blk.env.level.toNat = L ∧ t.blk.env.state = .sustain ∧ t.blk.env.elapsed.toNat = 0) ∧
      (E < D * 2 ^ 16 →
        t.blk.env.level.toNat = ramp 65536 L E D ∧ t.blk.env.level.toNat ≤ 65536 ∧
        (L < 65536 → L < t.blk.env.level.toNat) ∧ (L = 65536 → t.blk.env.level.toNat = 65536) ∧
        t.blk.env.state = .decay ∧ t.blk.env.elapsed.toNat = E)

/-- R107: the arm `SUSTAIN`: the level is the effective sustain level as the register stands at this call (so a
`SET_PARAM` to id 3 shows at the next `PROCESS`), and neither the elapsed time nor the state moves. -/
def Obligations.SustainArm : Prop :=
  (∀ (rate : DataField) (S : Nat) (s : State), 1 ≤ S → rate.toInt = S → s.blk.env.state = .sustain →
    ∃ t, exec (.process rate) s = .next t ∧
      (t.blk.env.level.toNat : Int) = min (max s.blk.x.sustain.toInt 0) 65536 ∧
      t.blk.env.state = .sustain ∧ t.blk.env.elapsed = s.blk.env.elapsed ∧
      t.blk.env.relStart = s.blk.env.relStart) ∧
  (∀ (rate : DataField) (S : Nat) (value : DataField) (s : State), 1 ≤ S → rate.toInt = S →
    s.blk.env.state = .sustain →
    ∃ t u, exec (.setParam 3 value) s = .next t ∧ exec (.process rate) t = .next u ∧
      (u.blk.env.level.toNat : Int) = min (max value.toInt 0) 65536 ∧ u.blk.env.state = .sustain)

/-- R108: the arm `RELEASE`, with `R` the effective release time. -/
def Obligations.ReleaseArm : Prop :=
  ∀ (rate : DataField) (S E R : Nat) (s : State), 1 ≤ S → rate.toInt = S → s.blk.env.state = .release →
    E = s.blk.env.elapsed.toNat + 2 ^ 40 / S → (R : Int) = max s.blk.x.releaseTime.toInt 0 →
    ∃ t, exec (.process rate) s = .next t ∧ t.blk.env.relStart = s.blk.env.relStart ∧
      (R * 2 ^ 16 ≤ E →
        t.blk.env.level.toNat = 0 ∧ t.blk.env.state = .idle ∧ t.blk.env.elapsed.toNat = 0) ∧
      (E < R * 2 ^ 16 →
        t.blk.env.level.toNat = ramp s.blk.env.relStart.toNat 0 E R ∧
        t.blk.env.level.toNat ≤ s.blk.env.relStart.toNat ∧
        (0 < s.blk.env.relStart.toNat → 0 < t.blk.env.level.toNat) ∧
        t.blk.env.state = .release ∧ t.blk.env.elapsed.toNat = E)

/-- R109, R30: the only events that change the envelope's state, from which state to which, and that every change of it
sets the elapsed time to 0. -/
def Obligations.OnlyTheseEventsChangeTheEnvelopeState : Prop :=
  ∀ s t : State, step s = .next t → t.blk.env.state ≠ s.blk.env.state →
    t.blk.env.elapsed = 0 ∧
    ((∃ inFlight rest, s.inputs = .reset inFlight :: rest ∧ t.blk.env.state = .idle) ∨
     (∃ w rest pitch, s.inputs = .command w :: rest ∧ decode w = .command (.noteOn pitch) ∧
       t.blk.env.state = .attack ∧ t.blk.env.level = 0) ∨
     (∃ w rest, s.inputs = .command w :: rest ∧ decode w = .command .noteOff ∧
       (s.blk.env.state = .attack ∨ s.blk.env.state = .decay ∨ s.blk.env.state = .sustain) ∧
       t.blk.env.state = .release ∧ t.blk.env.relStart = s.blk.env.level) ∨
     (∃ w rest rate, s.inputs = .command w :: rest ∧ decode w = .command (.process rate) ∧ 1 ≤ rate.toInt ∧
       ((s.blk.env.state = .attack ∧ t.blk.env.state = .decay ∧ t.blk.env.level.toNat = 65536) ∨
        (s.blk.env.state = .decay ∧ t.blk.env.state = .sustain ∧
          t.blk.env.level.toNat = sustainEff s.blk.x) ∨
        (s.blk.env.state = .release ∧ t.blk.env.state = .idle ∧ t.blk.env.level = 0))))

/-- R111: zero times. A stage whose effective time is at most one sample's time step ends on its first call: the attack
on the first `PROCESS` after `NOTE_ON`, the decay on the second, the release on the first after `NOTE_OFF`. An effective
time of 0 is such a time. -/
def Obligations.ZeroTimesEndTheirStageAtOnce : Prop :=
  (∀ (pitch : ByteField) (rate : DataField) (S : Nat) (s : State), 1 ≤ S → rate.toInt = S →
    attackEff s.blk.x * 2 ^ 16 ≤ 2 ^ 40 / S →
    ∃ t u, exec (.noteOn pitch) s = .next t ∧ exec (.process rate) t = .next u ∧
      u.blk.env.level.toNat = 65536 ∧ u.blk.env.state = .decay ∧
      (decayEff s.blk.x * 2 ^ 16 ≤ 2 ^ 40 / S →
        ∃ v, exec (.process rate) u = .next v ∧ v.blk.env.level.toNat = sustainEff s.blk.x ∧
          v.blk.env.state = .sustain)) ∧
  (∀ (rate : DataField) (S : Nat) (s : State), 1 ≤ S → rate.toInt = S →
    (s.blk.env.state = .attack ∨ s.blk.env.state = .decay ∨ s.blk.env.state = .sustain) →
    releaseEff s.blk.x * 2 ^ 16 ≤ 2 ^ 40 / S →
    ∃ t u, exec .noteOff s = .next t ∧ exec (.process rate) t = .next u ∧
      u.blk.env.level.toNat = 0 ∧ u.blk.env.state = .idle) ∧
  (∀ S : Nat, 0 * 2 ^ 16 ≤ 2 ^ 40 / S) ∧
  (∀ T : Nat, T * 2 ^ 16 ≤ 2 ^ 40 / 11289600 ↔ T = 0 ∨ T = 1)

/-- R112: how many calls a timed stage lasts that is entered with elapsed time 0, the rate and the parameters staying as
they are, what the calls return, and the example of that rule. -/
def Obligations.StageLastsItsNumberOfCalls : Prop :=
  (∀ (rate : DataField) (S T n start target dt : Nat) (stage after : EnvState) (s : State),
    1 ≤ S → rate.toInt = S → dt = 2 ^ 40 / S →
    ((stage = .attack ∧ (T : Int) = max s.blk.x.attackTime.toInt 0 ∧ start = 0 ∧ target = 65536 ∧ after = .decay) ∨
     (stage = .decay ∧ (T : Int) = max s.blk.x.decayTime.toInt 0 ∧ start = 65536 ∧ target = sustainEff s.blk.x ∧
       after = .sustain) ∨
     (stage = .release ∧ (T : Int) = max s.blk.x.releaseTime.toInt 0 ∧ start = s.blk.env.relStart.toNat ∧
       target = 0 ∧ after = .idle)) →
    s.blk.env.state = stage → s.blk.env.elapsed = 0 → n = max 1 ((T * 2 ^ 16 + dt - 1) / dt) →
    (∀ k, 1 ≤ k → k < n → ∃ t,
      runSteps k { s with inputs := List.replicate k (.command (encode (.process rate))) } = .next t ∧
      t.blk.env.state = stage ∧ t.blk.env.level.toNat = ramp start target (k * dt) T ∧
      t.blk.env.elapsed.toNat = k * dt) ∧
    (∃ t, runSteps n { s with inputs := List.replicate n (.command (encode (.process rate))) } = .next t ∧
      t.blk.env.state = after ∧ t.blk.env.level.toNat = target ∧ t.blk.env.elapsed = 0)) ∧
  sampleTime 11289600 = 97391 ∧ 655 * 2 ^ 16 * 100 / 97391 = 44076 ∧
  max 1 ((655 * 2 ^ 16 + 97391 - 1) / 97391) = 441

/-- R115: inside one stage, with parameters and rate unchanged, the returned levels do not decrease in Attack and do not
increase in Decay and Release, and the stage ends at 65536, at the effective sustain level, at 0. -/
def Obligations.StageLevelsAreMonotone : Prop :=
  ∀ (rate : DataField) (S : Nat) (s t u : State), 1 ≤ S → rate.toInt = S →
    exec (.process rate) s = .next t → exec (.process rate) t = .next u →
    (s.blk.env.state = .attack → t.blk.env.state = .attack →
      t.blk.env.level.toNat ≤ u.blk.env.level.toNat ∧
      (u.blk.env.state ≠ .attack → u.blk.env.level.toNat = 65536)) ∧
    (s.blk.env.state = .decay → t.blk.env.state = .decay →
      u.blk.env.level.toNat ≤ t.blk.env.level.toNat ∧
      (u.blk.env.state ≠ .decay → u.blk.env.level.toNat = sustainEff s.blk.x)) ∧
    (s.blk.env.state = .release → t.blk.env.state = .release →
      u.blk.env.level.toNat ≤ t.blk.env.level.toNat ∧
      (u.blk.env.state ≠ .release → u.blk.env.level.toNat = 0))

/-- R117: `NOTE_ON` directly followed by `NOTE_OFF` releases from level 0, and a release from 0 answers 0 on every call
and becomes Idle on the call that reaches the release time. -/
def Obligations.NoteOffRightAfterNoteOnReleasesFromZero : Prop :=
  (∀ (pitch : ByteField) (s : State), ∃ t u, exec (.noteOn pitch) s = .next t ∧ exec .noteOff t = .next u ∧
    u.blk.env.state = .release ∧ u.blk.env.relStart = 0 ∧ u.blk.env.level = 0 ∧ u.blk.env.elapsed = 0) ∧
  (∀ (rate : DataField) (S : Nat) (s : State), 1 ≤ S → rate.toInt = S → s.blk.env.state = .release →
    s.blk.env.relStart = 0 →
    ∃ t, exec (.process rate) s = .next t ∧ t.blk.env.level = 0 ∧ t.rsp = some ⟨.ok, 0, 0, 0⟩ ∧
      t.blk.env.relStart = 0 ∧
      (releaseEff s.blk.x * 2 ^ 16 ≤ s.blk.env.elapsed.toNat + 2 ^ 40 / S → t.blk.env.state = .idle) ∧
      (s.blk.env.elapsed.toNat + 2 ^ 40 / S < releaseEff s.blk.x * 2 ^ 16 → t.blk.env.state = .release))

/-- R99: the envelope sees a parameter only through its effective value: a negative time acts as 0, a sustain is
clamped to 0..1.0, and the master volume does not reach it. -/
def Obligations.EnvelopeSeesOnlyEffectiveValues : Prop :=
  ∀ (rate : DataField) (s t : State), s.blk.env = t.blk.env → 1 ≤ rate.toInt →
    max s.blk.x.attackTime.toInt 0 = max t.blk.x.attackTime.toInt 0 →
    max s.blk.x.decayTime.toInt 0 = max t.blk.x.decayTime.toInt 0 →
    min (max s.blk.x.sustain.toInt 0) 65536 = min (max t.blk.x.sustain.toInt 0) 65536 →
    max s.blk.x.releaseTime.toInt 0 = max t.blk.x.releaseTime.toInt 0 →
    ∃ s' t', exec (.process rate) s = .next s' ∧ exec (.process rate) t = .next t' ∧ s'.blk.env = t'.blk.env

/-- R127: in `PROCESS` the oscillator depends on the oscillator alone, the envelope on the envelope and `x[1]`..`x[4]`,
and the sample on the advanced phase, the new level and `x[0]`. -/
def Obligations.LeavesAreIndependent : Prop :=
  ∀ (rate : DataField) (s t : State), 1 ≤ rate.toInt →
    ∃ (s' t' : State) (r q : Response), exec (.process rate) s = .next s' ∧ exec (.process rate) t = .next t' ∧
      s'.rsp = some r ∧ t'.rsp = some q ∧
      (s.blk.osc = t.blk.osc → s'.blk.osc = t'.blk.osc) ∧
      (s.blk.env = t.blk.env → s.blk.x.attackTime = t.blk.x.attackTime → s.blk.x.decayTime = t.blk.x.decayTime →
        s.blk.x.sustain = t.blk.x.sustain → s.blk.x.releaseTime = t.blk.x.releaseTime → s'.blk.env = t'.blk.env) ∧
      (s'.blk.osc.phase = t'.blk.osc.phase → s'.blk.env.level = t'.blk.env.level →
        s.blk.x.masterVolume = t.blk.x.masterVolume → r = q)

/-- R31: outside Release the content of the release start level "is stale and no rule reads it": no command's response
and no other element depends on it. -/
def Obligations.StaleReleaseStartIsNotRead : Prop :=
  ∀ (i : Instr) (s : State) (stale : LevelWord), s.blk.env.state ≠ .release →
    ∃ t u, exec i s = .next t ∧
      exec i { s with blk := { s.blk with env := { s.blk.env with relStart := stale } } } = .next u ∧
      t.rsp = u.rsp ∧ t.blk.x = u.blk.x ∧ t.blk.osc = u.blk.osc ∧ t.blk.env.state = u.blk.env.state ∧
      t.blk.env.level = u.blk.env.level ∧ t.blk.env.elapsed = u.blk.env.elapsed

/-! ## The multiplier -/

/-- R121: the sample is the exact product, never more than 2^47 from 0, and its value is the product of the values. -/
def Obligations.SampleIsTheExactProduct : Prop :=
  ∀ (sgn : Sign) (level : LevelWord) (volume : ParamWord), level.toNat ≤ 65536 →
    (sampleWord sgn level volume).toInt = sgn.toInt * (level.toNat : Int) * volume.toInt ∧
    (sampleWord sgn level volume).toInt.natAbs ≤ 2 ^ 47 ∧
    sampleValue (sampleWord sgn level volume) = (sgn.toInt : ℚ) * levelValue level * paramValue volume

/-- R126: the corner cases of `MUL`. -/
def Obligations.MultiplierCornerCases : Prop :=
  (∀ (sgn : Sign) (volume : ParamWord), sampleWord sgn 0 volume = 0) ∧
  (∀ (sgn : Sign) (level : LevelWord), sampleWord sgn level 0 = 0) ∧
  (∀ (level : LevelWord) (volume : ParamWord), 0 < level.toNat → level.toNat ≤ 65536 → volume.toInt < 0 →
    (sampleWord .plus level volume).toInt < 0 ∧ 0 < (sampleWord .minus level volume).toInt) ∧
  (∀ (sgn : Sign) (volume : ParamWord), 65536 < volume.toInt → 1 < |sampleValue (sampleWord sgn 65536 volume)|) ∧
  sampleWord .minus 65536 0x80000000 = 0x0800000000000 ∧
  (sampleWord .minus 65536 0x80000000).toInt = 2 ^ 47 ∧
  sampleWord .plus 65536 0x00010000 = 0x0000100000000 ∧
  (sampleWord .plus 65536 0x00010000).toInt = 2 ^ 32 ∧
  sampleWord .minus 65536 0x00010000 = 0x1FFFF00000000 ∧
  (sampleWord .minus 65536 0x00010000).toInt = -2 ^ 32

/-! ## Time and runs -/

/-- R27, R128: "Calling process is the only way time advances": a step that is no reset and no successful `PROCESS`
leaves the phase where it is and the elapsed time where it is or at 0. -/
def Obligations.OnlyProcessAdvancesTime : Prop :=
  ∀ s t : State, step s = .next t →
    (t.blk.osc.phase = s.blk.osc.phase ∧
      (t.blk.env.elapsed = s.blk.env.elapsed ∨ t.blk.env.elapsed = 0)) ∨
    (∃ inFlight rest, s.inputs = .reset inFlight :: rest) ∨
    (∃ w rest rate, s.inputs = .command w :: rest ∧ decode w = .command (.process rate) ∧ 1 ≤ rate.toInt)

/-- R88 over a run: after `n` samples at one rate the phase has advanced by `n` increments, mod 2^32. -/
def Obligations.PhaseAfterManySamples : Prop :=
  ∀ (rate : DataField) (S n : Nat) (s : State), 1 ≤ S → rate.toInt = S →
    ∃ t, runSteps n { s with inputs := List.replicate n (.command (encode (.process rate))) } = .next t ∧
      t.blk.osc.phase.toNat = (s.blk.osc.phase.toNat + n * (s.blk.osc.freq.toNat / S)) % 2 ^ 32 ∧
      t.blk.osc.freq = s.blk.osc.freq

/-- R93: with the frequency below half the sample rate, every half cycle lasts `floor(2^31 / I)` or one more samples. `s`
is the state after the first sample of a half cycle: its phase is less than one increment past the last half-cycle
boundary. -/
def Obligations.HalfCycleLength : Prop :=
  ∀ (rate : DataField) (S I : Nat) (s : State), 1 ≤ S → rate.toInt = S → I = s.blk.osc.freq.toNat / S →
    0 < I → I < 2 ^ 31 → s.blk.osc.phase.toNat % 2 ^ 31 < I →
    ∃ L, (L = 2 ^ 31 / I ∨ L = 2 ^ 31 / I + 1) ∧
      (∀ k, k < L → ∃ t,
        runSteps k { s with inputs := List.replicate k (.command (encode (.process rate))) } = .next t ∧
        phaseSign t.blk.osc.phase = phaseSign s.blk.osc.phase) ∧
      (∃ t, runSteps L { s with inputs := List.replicate L (.command (encode (.process rate))) } = .next t ∧
        phaseSign t.blk.osc.phase ≠ phaseSign s.blk.osc.phase)

/-- R93: the mean period `2^32 / I` of the wave, in samples, lies at or above the ideal period `N` by less than the
rule's bound, and within one sample of it for ideal periods up to 65535 samples, which the pitches 0 to 127 have at
every sample rate up to 535 kHz. -/
def Obligations.MeanPeriodIsWithinOneSample : Prop :=
  (∀ (p : Int) (S I : Nat) (N : ℚ), -128 ≤ p → p ≤ 127 → 1 ≤ S → S < 2 ^ 31 →
    I = p2f p / S → I < 2 ^ 31 → N = uqValue 8 S / uqValue 40 (p2f p) →
    N ≤ 2 ^ 32 / (I : ℚ) ∧ 2 ^ 32 / (I : ℚ) < N / (1 - N / 2 ^ 32) ∧
    (N ≤ 65535 → 2 ^ 32 / (I : ℚ) - N < 1)) ∧
  (∀ (p : Int) (S : Nat), 0 ≤ p → p ≤ 127 → 1 ≤ S → S ≤ 535000 * 256 →
    uqValue 8 S / uqValue 40 (p2f p) ≤ 65535)

/-- R91: from reset until the first `NOTE_ON`, whatever else the host does, no pitch is set, the phase stays 0, the
oscillator gives +1, the envelope is Idle and every sample is 0. -/
def Obligations.SilentAndStillBeforeTheFirstNote : Prop :=
  ∀ (n : Nat) (inputs : List HostInput), (∀ h ∈ inputs, ∀ pitch, h.instr? ≠ some (.noteOn pitch)) →
    ∃ t, runSteps n { State.reset with inputs := inputs } = .next t ∧
      t.blk.osc.freq = 0 ∧ (∀ S, oscInc t.blk.osc.freq S = 0) ∧ t.blk.osc.phase = 0 ∧
      phaseSign t.blk.osc.phase = .plus ∧
      t.blk.env.state = .idle ∧ (∀ r, t.rsp = some r → r.left = 0 ∧ r.right = 0)

/-- R166: from reset until the host writes the master volume, every sample is 0, whatever else the host does. -/
def Obligations.SilentUntilTheVolumeIsWritten : Prop :=
  ∀ (n : Nat) (inputs : List HostInput), (∀ h ∈ inputs, ∀ v, h.instr? ≠ some (.setParam 0 v)) →
    ∃ t, runSteps n { State.reset with inputs := inputs } = .next t ∧
      (∀ r, t.rsp = some r → r.left = 0 ∧ r.right = 0)

/-- R182: the envelope leaves Sustain only by a note command (reset apart, R165); and without a `NOTE_OFF` it never sees
Idle again. -/
def Obligations.SustainDoesNotEndByItself : Prop :=
  ∀ (n : Nat) (s : State), s.blk.env.state = .sustain →
    ((∀ h ∈ s.inputs, h.isReset = false ∧ h.instr? ≠ some .noteOff ∧ ∀ pitch, h.instr? ≠ some (.noteOn pitch)) →
      ∃ t, runSteps n s = .next t ∧ t.blk.env.state = .sustain) ∧
    ((∀ h ∈ s.inputs, h.isReset = false ∧ h.instr? ≠ some .noteOff) →
      ∃ t, runSteps n s = .next t ∧ t.blk.env.state ≠ .idle)

/-! ## Invariants -/

/-- The state after reset meets the envelope, the oscillator and the port invariants. -/
def Obligations.ResetMeetsTheInvariants : Prop := Inv State.reset

/-- R32: the envelope invariants hold after reset, and every step keeps them. -/
def Obligations.EnvelopeInvariantIsKept : Prop :=
  EnvInv State.reset.blk.env ∧
  ∀ s t : State, EnvInv s.blk.env → step s = .next t → EnvInv t.blk.env

/-- R25, R26: every step keeps the frequency at 0 or at `P2F` of a pitch, and the phase at 0 before a pitch is set. -/
def Obligations.OscillatorInvariantIsKept : Prop :=
  ∀ s t : State, OscInv s.blk.osc → step s = .next t → OscInv t.blk.osc

/-- R62, R121, R125: every step from a state whose envelope is as R32 says leaves a response that carries the same word
on both channels, within 2^47 of 0, and zeros in what the command does not return. -/
def Obligations.ResponsesKeepTheirForm : Prop :=
  ∀ (s t : State) (r : Response), EnvInv s.blk.env → step s = .next t → t.rsp = some r → ResponseInv r
end

