-- ==== Sys2Proof/Config.lean ====
section
/-! DEFINITION. The implementation parameters of spec/00_scope.md rule R10, under the names of that rule's table.
They are the same for every instance ("There is no configuration that differs between instances", rule R38), so none
of them is an argument of the machine. There is NO FREE VALUE here: the spec fixes every value the block computes
(rule R19: "nothing in the block is non-deterministic"). Sys2Proof/Laws/Config.lean checks that the word types of
Sys2Proof/Word.lean have these widths. -/

namespace Sys2Proof.Config

/-- `N_PARAM`: the number of parameter registers. -/
abbrev nParam : Nat := 5

/-- `PARAM_W`: the width of a parameter register and of the value of `SET_PARAM` and `GET_PARAM`. -/
abbrev paramW : Nat := 32

/-- `ID_W`: the width of the parameter id field. -/
abbrev idW : Nat := 8

/-- `PITCH_W`: the width of the pitch operand. -/
abbrev pitchW : Nat := 8

/-- `REF_NOTE`: the note whose frequency is fixed. -/
abbrev refNote : Int := 69

/-- `REF_HZ`: the frequency of `refNote` in Hz. -/
abbrev refHz : Nat := 440

/-- `LUT_N`: the number of entries of the pitch table. -/
abbrev lutN : Nat := 12

/-- `LUT_W`: the width of an entry of the pitch table. -/
abbrev lutW : Nat := 32

/-- `SR_W`: the width of the sample-rate operand. -/
abbrev srW : Nat := 32

/-- `PHASE_W`: the width of the phase accumulator. -/
abbrev phaseW : Nat := 32

/-- `FREQ_W`: the width of the frequency register. -/
abbrev freqW : Nat := 54

/-- `ELAPSED_W`: the width of the elapsed-time counter. -/
abbrev elapsedW : Nat := 48

/-- `LEVEL_W`: the width of the envelope level and of the release start level. -/
abbrev levelW : Nat := 17

/-- `STATE_W`: the width of the envelope state tag. -/
abbrev stateW : Nat := 3

/-- `OUT_W`: the width of each output sample. -/
abbrev outW : Nat := 49

/-- `CMD_W`: the width of the command word. -/
abbrev cmdW : Nat := 48

/-- `STATUS_W`: the width of the response status. -/
abbrev statusW : Nat := 3

end Sys2Proof.Config
end

