-- ==== Sys2Proof/Laws/Config.lean ====
section
/-! SUPPORT. The word types have the widths of spec/00_scope.md rule R10. -/

namespace Sys2Proof.Laws

theorem word_widths :
    CmdWord = BitVec Config.cmdW ∧ ByteField = BitVec Config.idW ∧ ByteField = BitVec Config.pitchW ∧
    DataField = BitVec Config.srW ∧ ParamWord = BitVec Config.paramW ∧ PhaseWord = BitVec Config.phaseW ∧
    FreqWord = BitVec Config.freqW ∧ TableWord = BitVec Config.lutW ∧ ElapsedWord = BitVec Config.elapsedW ∧
    LevelWord = BitVec Config.levelW ∧ StateCode = BitVec Config.stateW ∧ SampleWord = BitVec Config.outW ∧
    StatusCode = BitVec Config.statusW :=
  ⟨rfl, rfl, rfl, rfl, rfl, rfl, rfl, rfl, rfl, rfl, rfl, rfl, rfl⟩

end Sys2Proof.Laws
end

