-- ==== Sys2Proof/Laws/Decode.lean ====
section
/-! SUPPORT. The fields of a packed word, and a word from its fields (spec/30_encoding.md rule R56). -/

namespace Sys2Proof

section Fields
variable (op : OpField) (b8 : ByteField) (d32 : DataField)

/-- The bits of a packed word. -/
theorem packWord_getLsbD (i : Nat) : (packWord op b8 d32).getLsbD i =
    if i < 32 then d32.getLsbD i else if i < 40 then b8.getLsbD (i - 32)
    else if i < 44 then false else op.getLsbD (i - 44) := by
  refine (BitVec.getLsbD_append (x := op ++ (0 : OpField) ++ b8) (y := d32)).trans ?_
  rw [BitVec.getLsbD_append, BitVec.getLsbD_append, BitVec.ofNat_eq_ofNat, BitVec.getLsbD_zero]
  by_cases h1 : i < 32
  · simp [h1]
  · by_cases h2 : i < 40
    · simp [h1, h2, show i - 32 < 8 by omega]
    · by_cases h3 : i < 44
      · simp [h1, h2, h3, show ¬ i - 32 < 8 by omega, show i - 32 - 8 < 4 by omega]
      · simp [h1, h2, h3, show ¬ i - 32 < 8 by omega, show ¬ i - 32 - 8 < 4 by omega,
          show i - 32 - 8 - 4 = i - 44 by omega]

@[simp] theorem opField_packWord : opField (packWord op b8 d32) = op := by
  apply BitVec.eq_of_getLsbD_eq
  intro i hi
  simp [opField, packWord_getLsbD, hi, show ¬ 44 + i < 32 by omega,
    show ¬ 44 + i < 40 by omega]

@[simp] theorem rsvField_packWord : rsvField (packWord op b8 d32) = 0 := by
  apply BitVec.eq_of_getLsbD_eq
  intro i hi
  simp [rsvField, packWord_getLsbD, hi, show ¬ 40 + i < 32 by omega,
    show 40 + i < 44 by omega]

@[simp] theorem b8Field_packWord : b8Field (packWord op b8 d32) = b8 := by
  apply BitVec.eq_of_getLsbD_eq
  intro i hi
  simp [b8Field, packWord_getLsbD, hi, show 32 + i < 40 by omega]

@[simp] theorem d32Field_packWord : d32Field (packWord op b8 d32) = d32 := by
  apply BitVec.eq_of_getLsbD_eq
  intro i hi
  simp [d32Field, packWord_getLsbD, hi]

end Fields

/-- A word whose reserved field is 0 is its other fields, packed. -/
theorem packWord_fields {w : CmdWord} (h : rsvField w = 0) :
    packWord (opField w) (b8Field w) (d32Field w) = w := by
  apply BitVec.eq_of_getLsbD_eq
  intro i hi
  rw [packWord_getLsbD]
  by_cases h1 : i < 32
  · simp [h1, d32Field]
  · by_cases h2 : i < 40
    · simp [h1, h2, b8Field, show i - 32 < 8 by omega, show 32 + (i - 32) = i by omega]
    · by_cases h3 : i < 44
      · have := congrArg (BitVec.getLsbD · (i - 40)) h
        simp only [rsvField, BitVec.getLsbD_extractLsb', show i - 40 < 4 by omega, show 40 + (i - 40) = i by omega,
          decide_true, Bool.true_and, BitVec.ofNat_eq_ofNat, BitVec.getLsbD_zero] at this
        simp [h1, h2, h3, this]
      · simp [h1, h2, h3, opField, show i - 44 < 4 by omega,
          show 44 + (i - 44) = i by omega]

end Sys2Proof
end

