-- ==== Sys2Proof/Laws/Operands.lean ====
section
/-! SUPPORT. The id check and the effective values (spec/44_parameters.md rule R136, spec/42_envelope.md rule R99). -/

namespace Sys2Proof.Machine

theorem Param.id_le (p : Param) : p.id ≤ 4 := by cases p <;> decide

@[simp] theorem paramOf_id (p : Param) : paramOf p.id = some p := by cases p <;> rfl

/-- What `paramOf` can answer: the parameter of an id of 4 or less. -/
theorem paramOf_eq_some {id : Nat} {p : Param} : paramOf id = some p ↔ p.id = id := by
  constructor
  · intro h
    unfold paramOf at h
    split at h <;> simp_all [Param.id] <;> subst h <;> rfl
  · rintro rfl
    exact paramOf_id p

/-- `paramOf` fails exactly on the ids of 5 or more. -/
theorem paramOf_eq_none {id : Nat} : paramOf id = none ↔ 5 ≤ id := by
  unfold paramOf
  split <;> simp_all
  omega

theorem effTime_lt (w : ParamWord) : effTime w < 2 ^ 31 := by
  have := w.toInt_lt
  unfold effTime paramInt
  omega

theorem effSustain_le (w : ParamWord) : effSustain w ≤ 65536 := by
  unfold effSustain
  omega

/-- The effective time as the integer the rule computes. -/
theorem effTime_toInt (w : ParamWord) : (effTime w : Int) = max w.toInt 0 := by
  unfold effTime paramInt
  omega

/-- The effective sustain level as the integer the rule computes. -/
theorem effSustain_toInt (w : ParamWord) : (effSustain w : Int) = min (max w.toInt 0) 65536 := by
  unfold effSustain paramInt
  omega

end Sys2Proof.Machine
end

