-- ==== Sys2Proof/Laws/State.lean ====
section
/-! SUPPORT. One lemma per field per update of the state, of the registers and of the block, so that no later proof
unfolds a record update. -/

namespace Sys2Proof.Machine

section Port
variable (b : Block) (st : Status) (l r : SampleWord) (v : ParamWord) (s : State)

@[simp] theorem respond_blk : (respond b st l r v s).blk = b := rfl
@[simp] theorem respond_rsp : (respond b st l r v s).rsp = some ⟨st, l, r, v⟩ := rfl
@[simp] theorem respond_inputs : (respond b st l r v s).inputs = s.inputs := rfl
@[simp] theorem respondOk_blk : (respondOk b s).blk = b := rfl
@[simp] theorem respondOk_rsp : (respondOk b s).rsp = some ⟨.ok, 0, 0, 0⟩ := rfl
@[simp] theorem respondOk_inputs : (respondOk b s).inputs = s.inputs := rfl
@[simp] theorem raise_blk : (raise st s).blk = s.blk := rfl
@[simp] theorem raise_rsp : (raise st s).rsp = some ⟨st, 0, 0, 0⟩ := rfl
@[simp] theorem raise_inputs : (raise st s).inputs = s.inputs := rfl
@[simp] theorem illegalCommand_blk : (illegalCommand s).blk = s.blk := rfl
@[simp] theorem illegalCommand_rsp : (illegalCommand s).rsp = some ⟨.illegalCmd, 0, 0, 0⟩ := rfl
@[simp] theorem illegalCommand_inputs : (illegalCommand s).inputs = s.inputs := rfl

end Port

section Host
variable (rest : List HostInput) (inFlight : Option CmdWord) (s : State)

@[simp] theorem takeInput_blk : (takeInput rest s).blk = s.blk := rfl
@[simp] theorem takeInput_rsp : (takeInput rest s).rsp = s.rsp := rfl
@[simp] theorem takeInput_inputs : (takeInput rest s).inputs = rest := rfl
@[simp] theorem hostReset_blk : (hostReset inFlight s).blk = Block.reset := rfl
@[simp] theorem hostReset_rsp : (hostReset inFlight s).rsp = none := rfl
@[simp] theorem hostReset_inputs : (hostReset inFlight s).inputs = s.inputs := rfl
@[simp] theorem noInput_blk : (noInput s).blk = s.blk := rfl
@[simp] theorem noInput_rsp : (noInput s).rsp = none := rfl
@[simp] theorem noInput_inputs : (noInput s).inputs = s.inputs := rfl

end Host

section Elements
variable (p : Int) (S : Nat) (b : Block) (o : Oscillator) (e : Envelope)

@[simp] theorem oscSetPitch_phase : (oscSetPitch p o).phase = o.phase := rfl
@[simp] theorem oscSetPitch_freq : (oscSetPitch p o).freq = BitVec.ofNat 54 (p2f p) := rfl
@[simp] theorem oscAdvance_phase : (oscAdvance S o).phase = o.phase + oscInc o.freq S := rfl
@[simp] theorem oscAdvance_freq : (oscAdvance S o).freq = o.freq := rfl
@[simp] theorem envNoteOn_state : (envNoteOn e).state = .attack := rfl
@[simp] theorem envNoteOn_level : (envNoteOn e).level = 0 := rfl
@[simp] theorem envNoteOn_elapsed : (envNoteOn e).elapsed = 0 := rfl
@[simp] theorem envNoteOn_relStart : (envNoteOn e).relStart = e.relStart := rfl
@[simp] theorem beginRelease_state : (beginRelease e).state = .release := rfl
@[simp] theorem beginRelease_level : (beginRelease e).level = e.level := rfl
@[simp] theorem beginRelease_elapsed : (beginRelease e).elapsed = 0 := rfl
@[simp] theorem beginRelease_relStart : (beginRelease e).relStart = e.level := rfl
@[simp] theorem blockNoteOn_x : (blockNoteOn p b).x = b.x := rfl
@[simp] theorem blockNoteOn_osc : (blockNoteOn p b).osc = oscSetPitch p b.osc := rfl
@[simp] theorem blockNoteOn_env : (blockNoteOn p b).env = envNoteOn b.env := rfl
@[simp] theorem blockNoteOff_x : (blockNoteOff b).x = b.x := rfl
@[simp] theorem blockNoteOff_osc : (blockNoteOff b).osc = b.osc := rfl
@[simp] theorem blockNoteOff_env : (blockNoteOff b).env = envNoteOff b.env := rfl
@[simp] theorem blockProcess_x : (blockProcess S b).x = b.x := rfl
@[simp] theorem blockProcess_osc : (blockProcess S b).osc = oscAdvance S b.osc := rfl
@[simp] theorem blockProcess_env : (blockProcess S b).env = envProcess b.x S b.env := rfl

end Elements

/-- Reading the registers after one of them is written (R140). -/
@[simp] theorem Params.read_write (x : Params) (p q : Param) (v : ParamWord) :
    (x.write p v).read q = if q = p then v else x.read q := by
  cases p <;> cases q <;> rfl

end Sys2Proof.Machine
end

