-- ==== Sys2Proof/Laws/Envelope.lean ====
section
/-! SUPPORT. What the envelope's operations do, once per operation (spec/42_envelope.md rules R98 to R108). -/

namespace Sys2Proof.Machine

theorem stageEnd_effTime_lt (w : ParamWord) : stageEnd (effTime w) < 2 ^ 47 := by
  have := effTime_lt w
  unfold stageEnd
  omega

theorem sampleTime_le (S : Nat) : sampleTime S ≤ 2 ^ 40 := Nat.div_le_self _ _

/-- The covered part of the way is at most the whole, before the stage's end. -/
theorem covered_le {d E N : Nat} (h : E < N) : d * E / N ≤ d :=
  Nat.div_le_of_le_mul (Nat.mul_comm N d ▸ Nat.mul_le_mul_left d (Nat.le_of_lt h))

/-- Before the stage's end a ramp lies between its start and its target (R98). -/
theorem ramp_between {start target E T : Nat} (h : E < stageEnd T) :
    min start target ≤ ramp start target E T ∧ ramp start target E T ≤ max start target := by
  unfold ramp
  split
  · have := covered_le (d := target - start) h
    generalize (target - start) * E / stageEnd T = c at *
    omega
  · have := covered_le (d := start - target) h
    generalize (start - target) * E / stageEnd T = c at *
    omega

/-- What one sample of a timed stage does: it completes the stage, or goes on along the ramp; where the two levels and
the stage's end fit their words, so do the values written. -/
theorem timedStage_cases (start target T : Nat) (after : EnvState) (S : Nat) (e : Envelope)
    (hs : start < 2 ^ 17) (ht : target < 2 ^ 17) (hT : stageEnd T < 2 ^ 48) :
    (stageEnd T ≤ e.elapsed.toNat + sampleTime S ∧ (timedStage start target T after S e).level.toNat = target ∧
      (timedStage start target T after S e).state = after ∧ (timedStage start target T after S e).elapsed = 0 ∧
      (timedStage start target T after S e).relStart = e.relStart) ∨
    (e.elapsed.toNat + sampleTime S < stageEnd T ∧
      (timedStage start target T after S e).level.toNat = ramp start target (e.elapsed.toNat + sampleTime S) T ∧
      (timedStage start target T after S e).state = e.state ∧
      (timedStage start target T after S e).elapsed.toNat = e.elapsed.toNat + sampleTime S ∧
      (timedStage start target T after S e).relStart = e.relStart) := by
  unfold timedStage
  split
  · next h =>
    refine .inl ⟨h, ?_, rfl, rfl, rfl⟩
    simpa using ht
  · next h =>
    have hr := ramp_between (start := start) (target := target) (Nat.lt_of_not_le h)
    refine .inr ⟨Nat.lt_of_not_le h, ?_, rfl, ?_, rfl⟩
    · rw [BitVec.toNat_ofNat, Nat.mod_eq_of_lt]
      omega
    · rw [BitVec.toNat_ofNat, Nat.mod_eq_of_lt]
      omega

/-- `ENV_NOTE_OFF` begins a release, or does nothing (R101). -/
theorem envNoteOff_cases (e : Envelope) :
    ((e.state = .attack ∨ e.state = .decay ∨ e.state = .sustain) ∧ envNoteOff e = beginRelease e) ∨
    ((e.state = .idle ∨ e.state = .release) ∧ envNoteOff e = e) := by
  unfold envNoteOff
  cases e.state <;> simp

section Arms
variable (x : Params) (S : Nat) (e : Envelope)

theorem envProcess_idle (h : e.state = .idle) : envProcess x S e = envIdle e := by simp [envProcess, h]
theorem envProcess_attack (h : e.state = .attack) : envProcess x S e = envAttack x S e := by simp [envProcess, h]
theorem envProcess_decay (h : e.state = .decay) : envProcess x S e = envDecay x S e := by simp [envProcess, h]
theorem envProcess_sustain (h : e.state = .sustain) : envProcess x S e = envSustain x e := by simp [envProcess, h]
theorem envProcess_release (h : e.state = .release) : envProcess x S e = envRelease x S e := by simp [envProcess, h]

theorem envSustain_level_toNat : (envSustain x e).level.toNat = sustainEff x := by
  have := effSustain_le x.sustain
  simp only [envSustain, BitVec.toNat_ofNat, sustainEff]
  omega

end Arms

/-- `env.rel_start` is not written by `ENV_PROCESS` (R102). -/
@[simp] theorem envProcess_relStart (x : Params) (S : Nat) (e : Envelope) :
    (envProcess x S e).relStart = e.relStart := by
  unfold envProcess envIdle envAttack envDecay envSustain envRelease timedStage
  cases e.state <;> simp only <;> split <;> rfl

end Sys2Proof.Machine
end

