-- ==== Sys2Proof/Laws/Oscillator.lean ====
section
/-! SUPPORT. What the pitch converter, the oscillator and the multiplier compute, on the integers of the rules
(spec/40_pitch_to_frequency.md, spec/41_oscillator.md, spec/43_voice_and_multiplier.md rule R121). -/

namespace Sys2Proof.Machine

/-- Every table entry is a word of at least `T[0]`. -/
theorem pitchTable_ge (i : Fin 12) : 1741914154 ≤ (pitchTable[i]).toNat := by
  revert i; decide

/-- `P2F` of any pitch a command word can carry fits the frequency register. -/
theorem p2f_lt (pitch : ByteField) : p2f (pitchOperand pitch) < 2 ^ 54 := by
  have h := (pitchTable[octaveIndex (pitchOperand pitch)]).isLt
  calc p2f (pitchOperand pitch) < 2 ^ 32 * 2 ^ (22 - octaveBelowTop (pitchOperand pitch)) :=
        Nat.mul_lt_mul_of_pos_right h (by positivity)
    _ ≤ 2 ^ 32 * 2 ^ 22 := Nat.mul_le_mul_left _ (Nat.pow_le_pow_right (by decide) (by omega))
    _ = 2 ^ 54 := by norm_num

theorem p2f_pos (p : Int) : 0 < p2f p := by
  have := pitchTable_ge (octaveIndex p)
  unfold p2f
  positivity

/-- The advanced phase as a number (R88). -/
theorem oscAdvance_phase_toNat (S : Nat) (o : Oscillator) :
    (oscAdvance S o).phase.toNat = (o.phase.toNat + o.freq.toNat / S) % 2 ^ 32 := by
  simp [oscInc, BitVec.toNat_add]

theorem phaseSign_toInt (phase : PhaseWord) :
    (phaseSign phase).toInt = if phase.toNat < 2 ^ 31 then 1 else -1 := by
  unfold phaseSign
  split <;> rfl

/-- The word of the sample is the exact product, whatever the 17-bit level (R121). -/
theorem sampleWord_toInt (sgn : Sign) (level : LevelWord) (volume : ParamWord) :
    (sampleWord sgn level volume).toInt = sgn.toInt * (level.toNat : Int) * volume.toInt := by
  have hl : (level.toNat : Int) < 2 ^ 17 := by exact_mod_cast level.isLt
  have h0 : (0 : Int) ≤ level.toNat := Int.natCast_nonneg _
  have hv := volume.toInt_lt
  have hv' := volume.le_toInt
  have hm : -(2 ^ 48 : Int) < (level.toNat : Int) * volume.toInt ∧ (level.toNat : Int) * volume.toInt < 2 ^ 48 := by
    norm_num at hv hv'
    constructor <;> nlinarith
  unfold sampleWord mul paramInt
  rw [BitVec.toInt_ofInt, Int.mul_assoc]
  generalize (level.toNat : Int) * volume.toInt = m at hm
  apply Int.bmod_eq_of_le <;> cases sgn <;> simp only [Sign.toInt] <;> push_cast <;> omega

end Sys2Proof.Machine
end

