-- ==== Sys2Proof/Laws/PerInstr.lean ====
section
/-! SUPPORT. One lemma per constructor of `Instr`: the word of a command is of the command's own format, by the
`match`/`mask` pair of spec/30_encoding.md rule R58, and so is legal. -/

namespace Sys2Proof.Laws

/-- The encoding of the command is admitted by its row of R58 and is a legal word. -/
def EncodedInItsFormat.Statement (i : Instr) : Prop :=
  i.wellFormed = true ∧ i.format.admits (encode i) = true ∧ legalWord (encode i) = true

theorem legalWord_of_format {r : FormatRow} {w : CmdWord} (hr : r ∈ formatRows) (h : r.admits w = true) :
    legalWord w = true :=
  List.any_eq_true.mpr ⟨r, hr, h⟩

/-- A packed word under a mask, bit by bit: the fields outside the mask are shut off, the others are as packed. -/
theorem packWord_and {op : OpField} {b8 : ByteField} {d32 : DataField} {mask pattern : CmdWord}
    (h : ∀ i, i < 48 → (((if i < 32 then d32.getLsbD i else if i < 40 then b8.getLsbD (i - 32)
      else if i < 44 then false else op.getLsbD (i - 44)) && mask.getLsbD i) = pattern.getLsbD i)) :
    packWord op b8 d32 &&& mask = pattern := by
  apply BitVec.eq_of_getLsbD_eq
  intro i hi
  rw [BitVec.getLsbD_and, packWord_getLsbD]
  exact h i hi

theorem EncodedInItsFormat.noteOn (pitch : ByteField) : EncodedInItsFormat.Statement (.noteOn pitch) := by
  have h : formatN.admits (encode (.noteOn pitch)) = true := by revert pitch; decide
  exact ⟨rfl, h, legalWord_of_format (by decide) h⟩

theorem EncodedInItsFormat.noteOff : EncodedInItsFormat.Statement .noteOff := by
  have h : formatZ.admits (encode .noteOff) = true := by decide
  exact ⟨rfl, h, legalWord_of_format (by decide) h⟩

theorem EncodedInItsFormat.process (rate : DataField) : EncodedInItsFormat.Statement (.process rate) := by
  have h : formatR.admits (encode (.process rate)) = true := by
    rw [FormatRow.admits, beq_iff_eq]
    exact packWord_and (by intro i hi; interval_cases i <;> simp [formatR])
  exact ⟨rfl, h, legalWord_of_format (by decide) h⟩

theorem EncodedInItsFormat.setParam (id : ByteField) (value : DataField) :
    EncodedInItsFormat.Statement (.setParam id value) := by
  have h : formatS.admits (encode (.setParam id value)) = true := by
    rw [FormatRow.admits, beq_iff_eq]
    exact packWord_and (by intro i hi; interval_cases i <;> simp [formatS])
  exact ⟨rfl, h, legalWord_of_format (by decide) h⟩

theorem EncodedInItsFormat.getParam (id : ByteField) : EncodedInItsFormat.Statement (.getParam id) := by
  have h : formatG.admits (encode (.getParam id)) = true := by revert id; decide
  exact ⟨rfl, h, legalWord_of_format (by decide) h⟩

end Sys2Proof.Laws
end

