-- ==== Sys2Proof/Laws/Step.lean ====
section
/-! SUPPORT. What one step can do, once (spec/00_scope.md rules R8, R9), and the runs of Safety.lean beside the host's. -/

namespace Sys2Proof.Machine

theorem step_noInput {s : State} (h : s.inputs = []) : step s = .next (noInput s) := by simp [step, h]

theorem step_reset {s : State} {f : Option CmdWord} {rest : List HostInput} (h : s.inputs = .reset f :: rest) :
    step s = .next (hostReset f (takeInput rest s)) := by simp [step, h]

theorem step_command {s : State} {w : CmdWord} {rest : List HostInput} {i : Instr}
    (h : s.inputs = .command w :: rest) (hd : decode w = .command i) :
    step s = exec i (takeInput rest s) := by simp [step, h, hd]

theorem step_illegal {s : State} {w : CmdWord} {rest : List HostInput} {why : Illegal}
    (h : s.inputs = .command w :: rest) (hd : decode w = .illegal why) :
    step s = .next (illegalCommand (takeInput rest s)) := by simp [step, h, hd]

/-- A step takes nothing, a reset, a legal command or an illegal word, and answers accordingly. -/
theorem step_cases (s : State) :
    (s.inputs = [] ∧ step s = .next (noInput s)) ∨
    (∃ f rest, s.inputs = .reset f :: rest ∧ step s = .next (hostReset f (takeInput rest s))) ∨
    (∃ w rest i, s.inputs = .command w :: rest ∧ decode w = .command i ∧ step s = exec i (takeInput rest s)) ∨
    (∃ w rest why, s.inputs = .command w :: rest ∧ decode w = .illegal why ∧
      step s = .next (illegalCommand (takeInput rest s))) := by
  match h : s.inputs with
  | [] => exact .inl ⟨rfl, step_noInput h⟩
  | .reset f :: rest => exact .inr (.inl ⟨f, rest, rfl, step_reset h⟩)
  | .command w :: rest =>
    match hd : decode w with
    | .command i => exact .inr (.inr (.inl ⟨w, rest, i, rfl, hd, step_command h hd⟩))
    | .illegal why => exact .inr (.inr (.inr ⟨w, rest, why, rfl, hd, step_illegal h hd⟩))

/-- `PROCESS` at a rate word that is the integer `S >= 1` (R124). -/
theorem execProcess_pos {rate : DataField} {S : Nat} (s : State) (hS : 1 ≤ S) (hr : rate.toInt = S) :
    exec (.process rate) s =
      .next (respond (blockProcess S s.blk) .ok (blockSample S s.blk) (blockSample S s.blk) 0 s) := by
  have : ¬ S = 0 := by omega
  simp [exec, execProcess, rateOperand, hr, this]

/-- `PROCESS` at a rate word of 0 or less (R148). -/
theorem execProcess_nonpos {rate : DataField} (s : State) (hr : rate.toInt ≤ 0) :
    exec (.process rate) s = .next (raise .badRate s) := by
  simp [exec, execProcess, rateOperand, hr]

/-- A parameter command at an id of 5 or more (R147). -/
theorem execSetParam_unknown {id : ByteField} (value : DataField) (s : State) (h : paramOf id.toNat = none) :
    exec (.setParam id value) s = .next (raise .unknownParam s) := by
  simp [exec, execSetParam, idOperand, h]

theorem execSetParam_known {id : ByteField} {p : Param} (value : DataField) (s : State)
    (h : paramOf id.toNat = some p) :
    exec (.setParam id value) s = .next (respondOk { s.blk with x := s.blk.x.write p value } s) := by
  simp [exec, execSetParam, idOperand, h, valueOperand]

theorem execGetParam_unknown {id : ByteField} (s : State) (h : paramOf id.toNat = none) :
    exec (.getParam id) s = .next (raise .unknownParam s) := by
  simp [exec, execGetParam, idOperand, h]

theorem execGetParam_known {id : ByteField} {p : Param} (s : State) (h : paramOf id.toNat = some p) :
    exec (.getParam id) s = .next (respond s.blk .ok 0 0 (s.blk.x.read p) s) := by
  simp [exec, execGetParam, idOperand, h]

/-- The runs of Safety.lean are the host's. -/
theorem runSteps_eq_run (n : Nat) (s : State) : runSteps n s = core.run n s := by
  induction n generalizing s with
  | zero => rfl
  | succ n ih =>
    simp only [runSteps, Host.Core.run, core]
    cases step s with
    | next t => exact ih t
    | fault r => rfl
    | refused r => rfl

theorem runSteps_succ {n : Nat} {s t : State} (h : step s = .next t) : runSteps (n + 1) s = runSteps n t := by
  simp [runSteps, h]

end Sys2Proof.Machine
end

