-- ==== Sys2Proof/Tests/Slice0.lean ====
section
/-! SUPPORT. Tests of one step or one decoding, with the expected values of spec/95_test_vectors.md (its section is named
at each), and for every statement of Certificates/Slice0/Obligations.lean that has hypotheses a witness that meets them
all together (`test_witness_<statement>`, one per clause where the statement has several). -/

namespace Sys2Proof.Tests
open Sys2Proof.Machine

/-- The parameters of the worked example of R116: volume 1.0, attack 1.0 s, decay 0.5 s, sustain 0.5, release 0.5 s. -/
def params : Params :=
  { masterVolume := 0x00010000, attackTime := 0x00010000, decayTime := 0x00008000, sustain := 0x00008000
    releaseTime := 0x00008000 }

/-- A machine with those parameters, note 69 set, this envelope and these host inputs. -/
def machine (state : EnvState) (level elapsed relStart : Nat) (inputs : List HostInput := []) : State :=
  { blk :=
      { x := params, osc := { phase := 123456789, freq := 0x1B80000000000 }
        env := { state := state, level := BitVec.ofNat 17 level, elapsed := BitVec.ofNat 48 elapsed
                 relStart := BitVec.ofNat 17 relStart } }
    rsp := none, inputs := inputs }

/-- The machine of `machine`, the oscillator being at this phase with this frequency. -/
def machineAt (phase freq : Nat) (s : State) : State :=
  { s with blk := { s.blk with osc := { phase := BitVec.ofNat 32 phase, freq := BitVec.ofNat 54 freq } } }

/-- The state after a step or a command, where there is one. -/
def nextOf : Host.Outcome State Fault Refusal → Option State
  | .next t => some t
  | .fault _ => none
  | .refused _ => none

/-! ## Well-formed words: each check of R61 refuses a word that fails only it -/

theorem test_legalWord_refuses_reserved_bits : legalWord 0x114500000000 = false ∧ legalWord 0x180000000000 = false := by
  decide
theorem test_legalWord_refuses_unused_ops :
    legalWord 0x000000000000 = false ∧ legalWord 0x600000000000 = false ∧ legalWord 0xF00000000000 = false := by decide
theorem test_legalWord_refuses_note_on_with_d32 : legalWord 0x104500000001 = false := by decide
theorem test_legalWord_refuses_note_off_with_b8 : legalWord 0x200100000000 = false := by decide
theorem test_legalWord_refuses_note_off_with_d32 : legalWord 0x200000000001 = false := by decide
theorem test_legalWord_refuses_process_with_b8 : legalWord 0x300100AC4400 = false := by decide
theorem test_legalWord_refuses_set_param_with_rsv : legalWord 0x410100008000 = false := by decide
theorem test_legalWord_refuses_get_param_with_d32 : legalWord 0x500300000001 = false := by decide
theorem test_legalWord_accepts_bad_id_and_rate :
    legalWord 0x40FFFFFFFFFF = true ∧ legalWord 0x500500000000 = true ∧ legalWord 0x300080000000 = true := by decide

/-! ## Decoding: words written out from R58, each field from its bits (section 2.6) -/

/-- op 0001, rsv 0000, pitch 1000 0000: -128. -/
theorem test_decode_note_on :
    decode 0b000100001000000000000000000000000000000000000000 = .command (.noteOn 0x80) ∧
    pitchOperand 0x80 = -128 ∧ pitchOperand 0xFF = -1 ∧ pitchOperand 0x7F = 127 := by decide
/-- op 0010 and nothing else. -/
theorem test_decode_note_off :
    decode 0b001000000000000000000000000000000000000000000000 = .command .noteOff := by decide
/-- op 0011, d32 0x00AC4400: 44100 Hz; d32 0xFF53BC00: -44100 Hz. -/
theorem test_decode_process :
    decode 0b001100000000000000000000101011000100010000000000 = .command (.process 0x00AC4400) ∧
    rateOperand 0x00AC4400 = 11289600 ∧ rateOperand 0xFF53BC00 = -11289600 := by decide
/-- op 0100, id 0000 0011, value 0xFFFF0000. -/
theorem test_decode_set_param :
    decode 0b010000000000001111111111111111110000000000000000 = .command (.setParam 3 0xFFFF0000) := by decide
/-- op 0101, id 0000 0011. -/
theorem test_decode_get_param :
    decode 0b010100000000001100000000000000000000000000000000 = .command (.getParam 3) := by decide
/-- R151: the word is illegal before the command's own check is made. -/
theorem test_decode_before_the_check :
    decode 0x300100000000 = .illegal .mustBeZero ∧ decode 0x410500000000 = .illegal .reservedNotZero ∧
    decode 0x600000000000 = .illegal .unknownOp := by decide
theorem test_decodeTableWord :
    decodeTableWord 48 0x104500000000 = some (.noteOn 69) ∧ decodeTableWord 48 0x104500000001 = none ∧
    decodeTableWord 56 0x104500000000 = none := by decide

/-! ## One step of each command -/

/-- P3 row 19: a retrigger in Release; the phase and the release start stay. -/
theorem test_note_on_retriggers :
    (nextOf (step ((machine .release 16384 536870912 32768).withFetchWord 48 0x10D900000000))).map
      (fun t => (t.blk.env, t.blk.osc)) =
    some ({ state := .attack, level := 0, elapsed := 0, relStart := 32768 }, { phase := 123456789, freq := 0xDC00000000 })
    := by decide
/-- P3 row 16: a release from the level reached in Attack. -/
theorem test_note_off_in_attack :
    (nextOf (step ((machine .attack 32768 1073741824 0).withFetchWord 48 0x200000000000))).map (fun t => t.blk.env) =
    some { state := .release, level := 32768, elapsed := 0, relStart := 32768 } := by decide
/-- P3 row 17: no second release. -/
theorem test_note_off_in_release :
    (nextOf (step ((machine .release 16384 536870912 32768).withFetchWord 48 0x200000000000))).map (fun t => t.blk) =
    some (machine .release 16384 536870912 32768).blk := by decide
/-- R116 call 5 (section 2.3 (d) row 11): the first sample of the decay. -/
theorem test_process_in_decay :
    (nextOf (step ((machine .decay 65536 0 0).withFetchWord 48 0x300000000400))).map (fun t => (t.rsp, t.blk.env)) =
    some (some { status := .ok, left := 0x00000C0000000, right := 0x00000C0000000, value := 0 },
      { state := .decay, level := 49152, elapsed := 1073741824, relStart := 0 }) := by decide
/-- Section 2.2 rows d and e with R129: call 51 is the first -1, call 101 the first +1 again. -/
theorem test_process_sign_is_of_the_advanced_phase :
    (nextOf (exec (.process 11289600) (machineAt 2142614050 483785116221440 (machine .sustain 32768 0 0)))).map
      (fun t => (t.blk.osc.phase, t.rsp)) =
      some (2185466331, some { status := .ok, left := 0x1FFFF80000000, right := 0x1FFFF80000000, value := 0 }) ∧
    (nextOf (exec (.process 11289600) (machineAt 4285228100 483785116221440 (machine .sustain 32768 0 0)))).map
      (fun t => (t.blk.osc.phase, t.rsp)) =
      some (33113085, some { status := .ok, left := 0x0000080000000, right := 0x0000080000000, value := 0 }) := by decide
/-- Section 2.5 row 11: the first invalid id writes nothing. -/
theorem test_set_param_unknown :
    (nextOf (step ((machine .attack 8192 1 2).withFetchWord 48 0x400512345678))).map (fun t => (t.blk, t.rsp)) =
    some ((machine .attack 8192 1 2).blk, some { status := .unknownParam, left := 0, right := 0, value := 0 }) := by
  decide
/-- Section 2.3 (f) row 11: a sustain of -1.0 is stored as it is. -/
theorem test_set_param_stores_raw :
    (nextOf (step ((machine .sustain 0 0 0).withFetchWord 48 0x4003FFFF0000))).map (fun t => t.blk.x) =
    some { params with sustain := 0xFFFF0000 } := by decide
theorem test_get_param :
    (nextOf (step ((machine .decay 0 0 0).withFetchWord 48 0x500300000000))).map (fun t => t.rsp) =
    some (some { status := .ok, left := 0, right := 0, value := 0x00008000 }) := by decide
/-- Section 2.5 row 14. -/
theorem test_get_param_unknown :
    (nextOf (step ((machine .decay 0 0 0).withFetchWord 48 0x50FF00000000))).map (fun t => t.rsp) =
    some (some { status := .unknownParam, left := 0, right := 0, value := 0 }) := by decide
/-- Section 2.7 row 9. -/
theorem test_illegal_word :
    (nextOf (step ((machine .attack 8192 1 2).withFetchWord 48 0x300100000000))).map (fun t => (t.blk, t.rsp)) =
    some ((machine .attack 8192 1 2).blk, some { status := .illegalCmd, left := 0, right := 0, value := 0 }) := by decide

/-! ## Internal operations (sections 2.1, 2.3, 2.4) and the text form -/

theorem test_p2f : p2f 69 = 0x1B80000000000 ∧ p2f (-128) = 0x149A0A792 ∧ p2f 127 = 0x30FFDA9C800000 := by decide
theorem test_ramp :
    ramp 0 65536 97391 655 = 148 ∧ ramp 65536 16384 42852040 655 = 16469 ∧ ramp 65536 0 2147483647 32768 = 1 ∧
    ramp 1 0 1 1 = 1 := by decide
theorem test_effective_values :
    effTime 0x80000000 = 0 ∧ effTime 0x7FFFFFFF = 2147483647 ∧ effSustain 0x00010001 = 65536 ∧
    effSustain 0xFFFFFFFF = 0 := by decide
theorem test_mul :
    sampleWord .plus 48695 0x00018000 = 0x000011D528000 ∧ sampleWord .minus 65536 0x7FFFFFFF = 0x1800000010000 := by
  decide
theorem test_assemble :
    (assembleLine "set_param sustain, -1.0 ; stored as is".toList).toOption = some (some 0x4003FFFF0000) ∧
    (assembleLine "process 44100".toList).toOption = some (some 0x300000AC4400) ∧
    (assembleLine ".word 0xFFFFFFFFFFFF".toList).toOption = some (some 0xFFFFFFFFFFFF) := by decide
/-- 0.1 Hz is not a multiple of 1/256 Hz. -/
theorem test_assemble_never_rounds :
    (match assembleLine "process 0.1".toList with
      | .error e => some e
      | .ok _ => none) = some .notExact := by decide

/-! ## Witnesses: the hypotheses of each statement hold together somewhere -/

theorem test_witness_HostResetMapsEveryStateToReset :
    (machine .decay 1 2 3 [.reset (some 0x104500000000), .command 0]).inputs =
      .reset (some 0x104500000000) :: [.command 0] := by decide
theorem test_witness_StepRunsTheDecodedCommand :
    (machine .decay 1 2 3 [.command 0x200000000000]).inputs = .command 0x200000000000 :: [] ∧
    decode 0x200000000000 = .command .noteOff ∧ Instr.noteOff.wellFormed = true := by decide
theorem test_witness_NothingPresentedChangesNoElement : (machine .decay 1 2 3).inputs = [] := by decide
theorem test_witness_PlacedWordRunsNext : decodeTableWord 48 0x300000000001 = some (.process 1) := by decide
theorem test_witness_DecodeOfEncodeIsTheCommand : (Instr.setParam 255 0xFFFFFFFF).wellFormed = true := by decide
theorem test_witness_EncodeOfDecodeIsTheWord :
    decode 0x40FFFFFFFFFF = .command (.setParam 255 0xFFFFFFFF) := by decide
theorem test_witness_IllegalWordsAnswerIllegalCmd_step :
    (machine .decay 1 2 3 [.command 0x600000000000]).inputs = .command 0x600000000000 :: [] ∧
    decode 0x600000000000 = .illegal .unknownOp := by decide
theorem test_witness_IllegalWordsAnswerIllegalCmd_id : 5 ≤ (5 : ByteField).toNat := by decide
theorem test_witness_IllegalWordsAnswerIllegalCmd_rate :
    (0 : DataField).toInt ≤ 0 ∧ (0x80000000 : DataField).toInt ≤ 0 := by decide
/-- One word for each row of the table of R62, at the boundary of the id and of the rate. -/
theorem test_witness_ResponsesFollowTheTable :
    (machine .decay 1 2 3 [.command 0x104500000000]).inputs = .command 0x104500000000 :: [] ∧
    formatN.admits 0x104500000000 = true ∧ formatZ.admits 0x200000000000 = true ∧
    (formatR.admits 0x300000000001 = true ∧ 1 ≤ (BitVec.extractLsb' 0 32 (0x300000000001 : CmdWord)).toInt) ∧
    (formatR.admits 0x300000000000 = true ∧ (BitVec.extractLsb' 0 32 (0x300000000000 : CmdWord)).toInt ≤ 0) ∧
    (formatS.admits 0x400400000000 = true ∧ (BitVec.extractLsb' 32 8 (0x400400000000 : CmdWord)).toNat ≤ 4) ∧
    (formatS.admits 0x400500000000 = true ∧ 5 ≤ (BitVec.extractLsb' 32 8 (0x400500000000 : CmdWord)).toNat) ∧
    (formatG.admits 0x500400000000 = true ∧
      (BitVec.extractLsb' 32 8 (0x500400000000 : CmdWord)).toNat = Param.releaseTime.id) ∧
    (formatG.admits 0x500500000000 = true ∧ 5 ≤ (BitVec.extractLsb' 32 8 (0x500500000000 : CmdWord)).toNat) ∧
    legalWord 0x500500000001 = false := by decide
theorem test_witness_ErrorsChangeNothing :
    (machine .decay 1 2 3 [.command 0x300000000000]).inputs = .command 0x300000000000 :: [] ∧
    ((nextOf (step (machine .decay 1 2 3 [.command 0x300000000000]))).bind fun t => t.rsp.map (·.status)) =
      some .badRate ∧ Status.badRate ≠ .ok := by decide
/-- Clauses 2 to 5: no change in Idle and Release, at a bad rate, for the other registers, at a bad id. -/
theorem test_witness_EachCommandWritesOnlyItsElements :
    ((machine .idle 0 0 0).blk.env.state = .idle ∧ (machine .release 1 0 1).blk.env.state = .release) ∧
    (0 : DataField).toInt ≤ 0 ∧ Param.sustain.id ≠ (4 : ByteField).toNat ∧ 5 ≤ (5 : ByteField).toNat := by decide
/-- Clauses 6 and 7: an illegal word; an error status. -/
theorem test_witness_EachCommandWritesOnlyItsElements_errors :
    (machine .decay 1 2 3 [.command 0]).inputs = .command 0 :: [] ∧ legalWord 0 = false ∧
    ∃ t r, step (machine .decay 1 2 3 [.command 0]) = .next t ∧ t.rsp = some r ∧ r.status ≠ .ok :=
  ⟨rfl, by decide, _, _, rfl, rfl, by decide⟩
theorem test_witness_NoteOffBeginsReleaseAtTheHeldLevel :
    (machine .attack 1 0 0).blk.env.state = .attack ∧ (machine .decay 1 0 0).blk.env.state = .decay ∧
    (machine .sustain 1 0 0).blk.env.state = .sustain ∧ (machine .idle 0 0 0).blk.env.state = .idle ∧
    (machine .release 1 0 1).blk.env.state = .release := by decide
/-- The lowest and the highest rate, and the two boundary rates that fail. -/
theorem test_witness_ProcessGivesOneSampleOnBothChannels :
    (1 ≤ 1 ∧ (1 : DataField).toInt = (1 : Nat)) ∧ (1 ≤ 2147483647 ∧ (0x7FFFFFFF : DataField).toInt = (2147483647 : Nat)) ∧
    (0 : DataField).toInt ≤ 0 ∧ (0xFFFFFFFF : DataField).toInt ≤ 0 := by decide
theorem test_witness_BadRateExactlyForZeroOrNegativeRates :
    (0 : DataField) = 0 ∧ (0x80000000 : DataField).msb = true ∧
    ((1 : DataField) ≠ 0 ∧ (1 : DataField).msb = false) ∧
    ((0x7FFFFFFF : DataField) ≠ 0 ∧ (0x7FFFFFFF : DataField).msb = false) := by decide
theorem test_witness_SetParamWritesExactlyOneRegister : (4 : ByteField).toNat ≤ 4 ∧ 5 ≤ (5 : ByteField).toNat := by decide
theorem test_witness_GetParamAnswersTheStoredWord :
    (4 : ByteField).toNat = Param.releaseTime.id ∧ 5 ≤ (5 : ByteField).toNat := by decide
theorem test_witness_ParameterIdsMapBijectively : 4 ≤ 4 ∧ 5 ≤ 5 := by decide
/-- A store, a note and a store to another id between, and the read. -/
theorem test_witness_StoredParameterReadsBack_run :
    (4 : ByteField).toNat ≤ 4 ∧
    (∀ h ∈ [HostInput.command 0x104500000000, HostInput.command 0x400000010000],
      h.isReset = false ∧ ∀ u, h.instr? ≠ some (.setParam 4 u)) ∧
    (machine .idle 0 0 0 [.command 0x400480000000, .command 0x104500000000, .command 0x400000010000,
        .command 0x500400000000]).inputs =
      .command (encode (.setParam 4 0x80000000)) ::
        ([.command 0x104500000000, .command 0x400000010000] ++ .command (encode (.getParam 4)) :: []) := by
  refine ⟨by decide, ?_, by decide⟩
  intro h hm
  have h1 : HostInput.instr? (.command 0x104500000000) = some (.noteOn 69) := by decide
  have h2 : HostInput.instr? (.command 0x400000010000) = some (.setParam 0 0x10000) := by decide
  rcases List.mem_cons.mp hm with rfl | hm
  · exact ⟨rfl, fun u hu => by rw [h1] at hu; cases hu⟩
  · rw [List.mem_singleton.mp hm]
    exact ⟨rfl, fun u hu => by rw [h2] at hu; cases hu⟩
theorem test_witness_StoredParameterReadsBack_change :
    ∃ t, step (machine .idle 0 0 0 [.command 0x400300010000]) = .next t ∧
      t.blk.x.read .sustain ≠ (machine .idle 0 0 0).blk.x.read .sustain :=
  ⟨_, rfl, by decide⟩
theorem test_witness_PitchAccuracy : (-128 : Int) ≤ -128 ∧ (127 : Int) ≤ 127 := by decide
theorem test_witness_PitchLaws :
    ((-128 : Int) ≤ -128 ∧ (115 : Int) ≤ 115) ∧ ((-16 : Int) ≤ -16 ∧ (4 : Int) ≤ 4) ∧
    ((-128 : Int) ≤ 126 ∧ (126 : Int) < 127 ∧ (127 : Int) ≤ 127) ∧ (0 : Fin 12) < 11 := by decide
theorem test_witness_PitchRange : (-128 : Int) ≤ 127 ∧ (127 : Int) ≤ 127 := by decide
theorem test_witness_IncrementBounds :
    ((-128 : Int) ≤ -128 ∧ (-128 : Int) ≤ 127 ∧ 1 ≤ 2147483647 ∧ 2147483647 ≤ 2 ^ 31 - 1) ∧ 1 ≤ 112640 := by decide
/-- A rising, a falling and a level ramp, at the last time before the end. -/
theorem test_witness_RampStaysBetweenStartAndTarget :
    (0 ≤ 65536 ∧ 65536 ≤ 65536 ∧ 1 ≤ 1 ∧ 65535 < 1 * 2 ^ 16) ∧ 0 < 65536 ∧ 1 < 65536 ∧ 65536 = 65536 := by decide
theorem test_witness_SampleTimeIsTheFlooredPeriod : 1 ≤ 1 ∧ 1 ≤ 2147483647 ∧ 2147483647 ≤ 2 ^ 31 - 1 := by decide
theorem test_witness_IdleIsSilentAndThePhaseRunsOn :
    1 ≤ 1024 ∧ (1024 : DataField).toInt = (1024 : Nat) ∧ (machine .idle 0 0 7).blk.env.state = .idle := by decide
/-- R116: call 4 reaches the attack time exactly; call 3 does not reach it. -/
theorem test_witness_AttackArm :
    (1 ≤ 1024 ∧ (1024 : DataField).toInt = (1024 : Nat) ∧ (machine .attack 49152 3221225472 0).blk.env.state = .attack ∧
      2 ^ 32 = (machine .attack 49152 3221225472 0).blk.env.elapsed.toNat + 2 ^ 40 / 1024 ∧
      ((65536 : Nat) : Int) = max params.attackTime.toInt 0 ∧ 65536 * 2 ^ 16 ≤ 2 ^ 32) ∧
    ((machine .attack 32768 2147483648 0).blk.env.state = .attack ∧
      3221225472 = (machine .attack 32768 2147483648 0).blk.env.elapsed.toNat + 2 ^ 40 / 1024 ∧
      3221225472 < 65536 * 2 ^ 16) := by decide
/-- R116: call 6 reaches the decay time exactly; call 5 does not reach it. -/
theorem test_witness_DecayArm :
    (1 ≤ 1024 ∧ (1024 : DataField).toInt = (1024 : Nat) ∧ (machine .decay 49152 1073741824 0).blk.env.state = .decay ∧
      2 ^ 31 = (machine .decay 49152 1073741824 0).blk.env.elapsed.toNat + 2 ^ 40 / 1024 ∧
      ((32768 : Nat) : Int) = max params.decayTime.toInt 0 ∧
      ((32768 : Nat) : Int) = min (max params.sustain.toInt 0) 65536 ∧ 32768 * 2 ^ 16 ≤ 2 ^ 31) ∧
    ((machine .decay 65536 0 0).blk.env.state = .decay ∧
      1073741824 = (machine .decay 65536 0 0).blk.env.elapsed.toNat + 2 ^ 40 / 1024 ∧ 1073741824 < 32768 * 2 ^ 16) := by
  decide
theorem test_witness_SustainArm :
    1 ≤ 1024 ∧ (1024 : DataField).toInt = (1024 : Nat) ∧ (machine .sustain 32768 0 0).blk.env.state = .sustain := by decide
/-- R116: call 10 reaches the release time exactly; call 9 does not reach it. -/
theorem test_witness_ReleaseArm :
    (1 ≤ 1024 ∧ (1024 : DataField).toInt = (1024 : Nat) ∧
      (machine .release 16384 1073741824 32768).blk.env.state = .release ∧
      2 ^ 31 = (machine .release 16384 1073741824 32768).blk.env.elapsed.toNat + 2 ^ 40 / 1024 ∧
      ((32768 : Nat) : Int) = max params.releaseTime.toInt 0 ∧ 32768 * 2 ^ 16 ≤ 2 ^ 31) ∧
    ((machine .release 32768 0 32768).blk.env.state = .release ∧
      1073741824 = (machine .release 32768 0 32768).blk.env.elapsed.toNat + 2 ^ 40 / 1024 ∧
      1073741824 < 32768 * 2 ^ 16) := by decide
theorem test_witness_OnlyTheseEventsChangeTheEnvelopeState :
    ∃ t, step (machine .attack 49152 3221225472 0 [.command 0x300000000400]) = .next t ∧
      t.blk.env.state ≠ (machine .attack 49152 3221225472 0).blk.env.state :=
  ⟨_, rfl, by decide⟩
/-- At 1 Hz the time step is the attack time of 1.0 s exactly. -/
theorem test_witness_ZeroTimesEndTheirStageAtOnce :
    (1 ≤ 256 ∧ (256 : DataField).toInt = (256 : Nat)) ∧ attackEff params * 2 ^ 16 = 2 ^ 40 / 256 ∧
    decayEff params * 2 ^ 16 ≤ 2 ^ 40 / 256 ∧
    ((machine .sustain 32768 0 0).blk.env.state = .sustain ∧ releaseEff params * 2 ^ 16 ≤ 2 ^ 40 / 256) := by decide
/-- R116: an attack of 4 calls, a decay and a release of 2. -/
theorem test_witness_StageLastsItsNumberOfCalls :
    (1 ≤ 1024 ∧ (1024 : DataField).toInt = (1024 : Nat) ∧ 2 ^ 30 = 2 ^ 40 / 1024) ∧
    (((65536 : Nat) : Int) = max params.attackTime.toInt 0 ∧ (machine .attack 0 0 0).blk.env.state = .attack ∧
      (machine .attack 0 0 0).blk.env.elapsed = 0 ∧ 4 = max 1 ((65536 * 2 ^ 16 + 2 ^ 30 - 1) / 2 ^ 30) ∧ 1 ≤ 3 ∧ 3 < 4) ∧
    (((32768 : Nat) : Int) = max params.decayTime.toInt 0 ∧ 32768 = sustainEff params ∧
      (machine .decay 65536 0 0).blk.env.state = .decay ∧ (machine .decay 65536 0 0).blk.env.elapsed = 0 ∧
      2 = max 1 ((32768 * 2 ^ 16 + 2 ^ 30 - 1) / 2 ^ 30) ∧ 1 ≤ 1 ∧ 1 < 2) ∧
    (((32768 : Nat) : Int) = max params.releaseTime.toInt 0 ∧ 1 = (machine .release 1 0 1).blk.env.relStart.toNat ∧
      (machine .release 1 0 1).blk.env.state = .release ∧ (machine .release 1 0 1).blk.env.elapsed = 0) := by decide
/-- Attack, Decay and Release, two samples each: the second ends the stage in Decay and Release. -/
theorem test_witness_StageLevelsAreMonotone :
    (1 ≤ 1024 ∧ (1024 : DataField).toInt = (1024 : Nat)) ∧
    (∃ t u, exec (.process 1024) (machine .attack 0 0 0) = .next t ∧ exec (.process 1024) t = .next u ∧
      (machine .attack 0 0 0).blk.env.state = .attack ∧ t.blk.env.state = .attack) ∧
    (∃ t u, exec (.process 1024) (machine .decay 65536 0 0) = .next t ∧ exec (.process 1024) t = .next u ∧
      (machine .decay 65536 0 0).blk.env.state = .decay ∧ t.blk.env.state = .decay ∧ u.blk.env.state ≠ .decay) ∧
    (∃ t u, exec (.process 1024) (machine .release 32768 0 32768) = .next t ∧ exec (.process 1024) t = .next u ∧
      (machine .release 32768 0 32768).blk.env.state = .release ∧ t.blk.env.state = .release ∧
      u.blk.env.state ≠ .release) :=
  ⟨by decide, ⟨_, _, rfl, rfl, rfl, by decide⟩, ⟨_, _, rfl, rfl, rfl, by decide, by decide⟩,
    ⟨_, _, rfl, rfl, rfl, by decide, by decide⟩⟩
/-- The two calls of a release from 0: time not reached, time reached. -/
theorem test_witness_NoteOffRightAfterNoteOnReleasesFromZero :
    (1 ≤ 1024 ∧ (1024 : DataField).toInt = (1024 : Nat) ∧ (machine .release 0 0 0).blk.env.state = .release ∧
      (machine .release 0 0 0).blk.env.relStart = 0 ∧
      (machine .release 0 0 0).blk.env.elapsed.toNat + 2 ^ 40 / 1024 < releaseEff params * 2 ^ 16) ∧
    releaseEff params * 2 ^ 16 ≤ (machine .release 0 1073741824 0).blk.env.elapsed.toNat + 2 ^ 40 / 1024 := by decide
/-- Two machines whose registers differ and whose effective values do not. -/
theorem test_witness_EnvelopeSeesOnlyEffectiveValues :
    ∃ s t : State, s.blk.env = t.blk.env ∧ s.blk.x ≠ t.blk.x ∧ 1 ≤ (1024 : DataField).toInt ∧
      max s.blk.x.attackTime.toInt 0 = max t.blk.x.attackTime.toInt 0 ∧
      max s.blk.x.decayTime.toInt 0 = max t.blk.x.decayTime.toInt 0 ∧
      min (max s.blk.x.sustain.toInt 0) 65536 = min (max t.blk.x.sustain.toInt 0) 65536 ∧
      max s.blk.x.releaseTime.toInt 0 = max t.blk.x.releaseTime.toInt 0 :=
  ⟨{ machine .decay 5 6 7 with blk := { (machine .decay 5 6 7).blk with x := ⟨0, 0, 0xFFFF8000, 0x00020000, 1⟩ } },
    { machine .decay 5 6 7 with blk := { (machine .decay 5 6 7).blk with x := ⟨9, 0xFFFF0000, 0, 0x00010000, 1⟩ } },
    by decide⟩
theorem test_witness_LeavesAreIndependent :
    1 ≤ (1 : DataField).toInt ∧ (machine .decay 1 2 3).blk.osc = (machine .attack 4 5 6).blk.osc := by decide
theorem test_witness_StaleReleaseStartIsNotRead : (machine .decay 1 2 3).blk.env.state ≠ .release := by decide
theorem test_witness_SampleIsTheExactProduct : (65536 : LevelWord).toNat ≤ 65536 := by decide
theorem test_witness_MultiplierCornerCases :
    (0 < (65536 : LevelWord).toNat ∧ (65536 : LevelWord).toNat ≤ 65536 ∧ (0xFFFFFFFF : ParamWord).toInt < 0) ∧
    65536 < (0x00010001 : ParamWord).toInt := by decide
theorem test_witness_OnlyProcessAdvancesTime : ∃ t, step (machine .decay 1 2 3 [.command 0x104500000000]) = .next t :=
  ⟨_, rfl⟩
theorem test_witness_PhaseAfterManySamples : 1 ≤ 1 ∧ (1 : DataField).toInt = (1 : Nat) := by decide
/-- Note 69 at 44100 Hz, after call 101 (R94) and after call 51. -/
theorem test_witness_HalfCycleLength :
    (1 ≤ 11289600 ∧ (11289600 : DataField).toInt = (11289600 : Nat) ∧
      42852281 = (machineAt 33113085 483785116221440 (machine .sustain 0 0 0)).blk.osc.freq.toNat / 11289600 ∧
      0 < 42852281 ∧ 42852281 < 2 ^ 31 ∧
      (machineAt 33113085 483785116221440 (machine .sustain 0 0 0)).blk.osc.phase.toNat % 2 ^ 31 < 42852281) ∧
    (machineAt 2185466331 483785116221440 (machine .sustain 0 0 0)).blk.osc.phase.toNat % 2 ^ 31 < 42852281 := by decide
/-- Note 69 at 44100 Hz: an ideal period of about 100 samples; pitch 0 at 535 kHz. -/
theorem test_witness_MeanPeriodIsWithinOneSample :
    ((-128 : Int) ≤ 69 ∧ (69 : Int) ≤ 127 ∧ 1 ≤ 11289600 ∧ 11289600 < 2 ^ 31 ∧ 42852281 = p2f 69 / 11289600 ∧
      42852281 < 2 ^ 31 ∧ ∃ N : ℚ, N = uqValue 8 11289600 / uqValue 40 (p2f 69) ∧ N ≤ 65535) ∧
    ((0 : Int) ≤ 0 ∧ (0 : Int) ≤ 127 ∧ 1 ≤ 535000 * 256 ∧ 535000 * 256 ≤ 535000 * 256) := by
  have h : p2f 69 = 483785116221440 := by decide
  refine ⟨⟨by decide, by decide, by decide, by decide, by decide, by decide, _, rfl, ?_⟩, by decide⟩
  rw [h]
  norm_num [uqValue]
/-- Everything but a `NOTE_ON`: a volume, a sample, an illegal word, a reset. -/
theorem test_witness_SilentAndStillBeforeTheFirstNote :
    ∀ h ∈ [HostInput.command 0x400000010000, HostInput.command 0x300000AC4400, HostInput.command 0, HostInput.reset none],
      ∀ pitch, h.instr? ≠ some (.noteOn pitch) := by decide
theorem test_witness_SilentUntilTheVolumeIsWritten :
    ∀ h ∈ [HostInput.command 0x104500000000, HostInput.command 0x300000AC4400, HostInput.reset none],
      ∀ v, h.instr? ≠ some (.setParam 0 v) := by
  intro h hm v hv
  have h1 : HostInput.instr? (.command 0x104500000000) = some (.noteOn 69) := by decide
  have h2 : HostInput.instr? (.command 0x300000AC4400) = some (.process 11289600) := by decide
  simp only [List.mem_cons, List.not_mem_nil, or_false] at hm
  rcases hm with rfl | rfl | rfl
  · rw [h1] at hv; cases hv
  · rw [h2] at hv; cases hv
  · cases hv
/-- Samples and a sustain of 0 for the first clause, a new note too for the second. -/
theorem test_witness_SustainDoesNotEndByItself :
    (machine .sustain 0 0 0).blk.env.state = .sustain ∧
    (∀ h ∈ [HostInput.command 0x400300000000, HostInput.command 0x300000AC4400],
      h.isReset = false ∧ h.instr? ≠ some .noteOff ∧ ∀ pitch, h.instr? ≠ some (.noteOn pitch)) ∧
    (∀ h ∈ [HostInput.command 0x104500000000, HostInput.command 0x300000AC4400],
      h.isReset = false ∧ h.instr? ≠ some .noteOff) := by decide
/-- The envelope invariant at its bounds: level and release start 1.0, the longest elapsed time. -/
theorem test_witness_EnvelopeInvariantIsKept :
    EnvInv (machine .attack 65536 (2 ^ 47 - 1) 65536 [.command 0x300000000001]).blk.env ∧
    ∃ t, step (machine .attack 65536 (2 ^ 47 - 1) 65536 [.command 0x300000000001]) = .next t :=
  ⟨⟨by decide, by decide, by decide, by decide, by decide, by decide⟩, _, rfl⟩
theorem test_witness_OscillatorInvariantIsKept :
    OscInv (machine .attack 0 0 0 [.command 0x300000000001]).blk.osc ∧
    ∃ t, step (machine .attack 0 0 0 [.command 0x300000000001]) = .next t :=
  ⟨⟨.inr ⟨69, by decide⟩, by decide⟩, _, rfl⟩
theorem test_witness_ResponsesKeepTheirForm :
    EnvInv (machine .decay 65536 0 0 [.command 0x300000000001]).blk.env ∧
    ∃ t r, step (machine .decay 65536 0 0 [.command 0x300000000001]) = .next t ∧ t.rsp = some r :=
  ⟨⟨by decide, by decide, by decide, by decide, by decide, by decide⟩, _, _, rfl, rfl⟩

end Sys2Proof.Tests
end

section
/-! The obligations about one step of the machine that follow from spec/00_scope.md rule R8: a presented command is run,
and nothing happens without one. Each is the law of Laws/Step.lean for that branch of `step`, with the state it answers
written as a record update. -/

namespace Sys2Proof.Machine

/-- Taking a host input touches the host's pending choices only. -/
theorem takeInput_eq_update (rest : List HostInput) (s : State) : takeInput rest s = { s with inputs := rest } := rfl

/-- A step without a host input touches the response port only (log entry 3). -/
theorem noInput_eq_update (s : State) : noInput s = { s with rsp := none } := rfl

/-- Settles O3: it is the command branch of `step`. Every decoded command is well formed, so that hypothesis is not
needed. -/
theorem stepRunsTheDecodedCommand : Obligations.StepRunsTheDecodedCommand := by
  intro s w rest i hinputs hdecode _
  calc step s = exec i (takeInput rest s) := step_command hinputs hdecode
    _ = exec i { s with inputs := rest } := by rw [takeInput_eq_update]

/-- Settles O4: it is the branch of `step` where the host presents nothing. -/
theorem nothingPresentedChangesNoElement : Obligations.NothingPresentedChangesNoElement := by
  intro s hinputs
  calc step s = .next (noInput s) := step_noInput hinputs
    _ = .next { s with rsp := none } := by rw [noInput_eq_update]

end Sys2Proof.Machine
end

section
/-! SUPPORT. What a command does to the block and answers, once, as a relation with one constructor per outcome; the
obligations about all commands are case analyses of it (spec/10_state.md rule R35). -/

namespace Sys2Proof.Machine

/-- `Executes b i b' r`: on a block `b` the command `i` leaves the block `b'` and answers `r`. The conditions of the
outcomes are those of rules R124, R147 and R148. `exec_of_executes` and `exists_executes` tie it to `exec`. -/
inductive Executes (b : Block) : Instr → Block → Response → Prop where
  | noteOn (pitch : ByteField) :
      Executes b (.noteOn pitch) (blockNoteOn (pitchOperand pitch) b) ⟨.ok, 0, 0, 0⟩
  | noteOff : Executes b .noteOff (blockNoteOff b) ⟨.ok, 0, 0, 0⟩
  | process {rate : DataField} {S : Nat} (hS : 1 ≤ S) (hrate : rate.toInt = S) :
      Executes b (.process rate) (blockProcess S b) ⟨.ok, blockSample S b, blockSample S b, 0⟩
  | badRate {rate : DataField} (hrate : rate.toInt ≤ 0) : Executes b (.process rate) b (errorResponse .badRate)
  | setParam {id : ByteField} {p : Param} (value : DataField) (hid : paramOf id.toNat = some p) :
      Executes b (.setParam id value) { b with x := b.x.write p value } ⟨.ok, 0, 0, 0⟩
  | setUnknown {id : ByteField} (value : DataField) (hid : paramOf id.toNat = none) :
      Executes b (.setParam id value) b (errorResponse .unknownParam)
  | getParam {id : ByteField} {p : Param} (hid : paramOf id.toNat = some p) :
      Executes b (.getParam id) b ⟨.ok, 0, 0, b.x.read p⟩
  | getUnknown {id : ByteField} (hid : paramOf id.toNat = none) :
      Executes b (.getParam id) b (errorResponse .unknownParam)

/-- Every command has an outcome on every block (R146). -/
theorem exists_executes (i : Instr) (b : Block) : ∃ b' r, Executes b i b' r := by
  cases i with
  | noteOn pitch => exact ⟨_, _, .noteOn pitch⟩
  | noteOff => exact ⟨_, _, .noteOff⟩
  | process rate =>
    by_cases hrate : rate.toInt ≤ 0
    · exact ⟨_, _, .badRate hrate⟩
    · exact ⟨_, _, .process (S := rate.toInt.toNat) (by omega) (by omega)⟩
  | setParam id value =>
    cases hid : paramOf id.toNat with
    | none => exact ⟨_, _, .setUnknown value hid⟩
    | some p => exact ⟨_, _, .setParam value hid⟩
  | getParam id =>
    cases hid : paramOf id.toNat with
    | none => exact ⟨_, _, .getUnknown hid⟩
    | some p => exact ⟨_, _, .getParam hid⟩

/-- `exec` answers the outcome, and touches nothing of the machine but the block and the response port. -/
theorem exec_of_executes {i : Instr} {s : State} {b : Block} {r : Response} (h : Executes s.blk i b r) :
    exec i s = .next { s with blk := b, rsp := some r } := by
  cases h with
  | noteOn pitch => rfl
  | noteOff => rfl
  | process hS hrate => exact execProcess_pos s hS hrate
  | badRate hrate => exact execProcess_nonpos s hrate
  | setParam value hid => exact execSetParam_known value s hid
  | setUnknown value hid => exact execSetParam_unknown value s hid
  | getParam hid => exact execGetParam_known s hid
  | getUnknown hid => exact execGetParam_unknown s hid

/-- Every command answers a next state, with the host's inputs kept and the block and the response of its outcome. -/
theorem exists_exec (i : Instr) (s : State) :
    ∃ t r, exec i s = .next t ∧ t.inputs = s.inputs ∧ t.rsp = some r ∧ Executes s.blk i t.blk r := by
  obtain ⟨b, r, h⟩ := exists_executes i s.blk
  exact ⟨_, r, exec_of_executes h, rfl, rfl, h⟩

/-- What a step can do to the block: reset it, run a command on it, or leave it as it is. -/
theorem step_next_cases {s t : State} (h : step s = .next t) :
    (∃ f rest, s.inputs = .reset f :: rest ∧ t.blk = Block.reset) ∨
    (∃ w rest i r, s.inputs = .command w :: rest ∧ decode w = .command i ∧ t.rsp = some r ∧
      Executes s.blk i t.blk r) ∨
    t.blk = s.blk := by
  obtain ⟨_, hstep⟩ | ⟨f, rest, hin, hstep⟩ | ⟨w, rest, i, hin, hdec, hstep⟩ | ⟨_, _, _, _, _, hstep⟩ :=
    step_cases s
  · cases hstep.symm.trans h
    exact .inr (.inr rfl)
  · cases hstep.symm.trans h
    exact .inl ⟨f, rest, hin, rfl⟩
  · obtain ⟨u, r, hexec, _, hrsp, hx⟩ := exists_exec i (takeInput rest s)
    cases hexec.symm.trans (hstep.symm.trans h)
    exact .inr (.inl ⟨w, rest, i, r, hin, hdec, hrsp, hx⟩)
  · cases hstep.symm.trans h
    exact .inr (.inr rfl)

/-- A property of the block that reset meets and every command keeps is kept by every step. -/
theorem step_keeps {P : Block → Prop} (hreset : P Block.reset)
    (hexec : ∀ {b b' i r}, P b → Executes b i b' r → P b') {s t : State} (hs : P s.blk) (h : step s = .next t) :
    P t.blk := by
  obtain ⟨_, _, _, hblk⟩ | ⟨_, _, _, _, _, _, _, hx⟩ | hblk := step_next_cases h
  · exact hblk ▸ hreset
  · exact hexec hs hx
  · exact hblk ▸ hs

end Sys2Proof.Machine
end

section
/-! The envelope invariant of spec/10_state.md rule R32: what reset leaves and what each operation of the envelope
keeps. -/

namespace Sys2Proof.Machine

theorem envInv_reset : EnvInv Block.reset.env := by
  constructor <;> decide

theorem envNoteOn_keeps_envInv {e : Envelope} (he : EnvInv e) : EnvInv (envNoteOn e) where
  level_le := by simp
  relStart_le := he.relStart_le
  elapsed_lt := by simp
  elapsed_idle := by simp
  elapsed_sustain := by simp
  level_idle := by simp

theorem beginRelease_keeps_envInv {e : Envelope} (he : EnvInv e) : EnvInv (beginRelease e) where
  level_le := he.level_le
  relStart_le := he.level_le
  elapsed_lt := by simp
  elapsed_idle := by simp
  elapsed_sustain := by simp
  level_idle := by simp

theorem envNoteOff_keeps_envInv {e : Envelope} (he : EnvInv e) : EnvInv (envNoteOff e) := by
  obtain ⟨_, hoff⟩ | ⟨_, hoff⟩ := envNoteOff_cases e
  · rw [hoff]
    exact beginRelease_keeps_envInv he
  · rwa [hoff]

/-- One sample of a timed stage keeps the invariant: at the stage's end the elapsed time is 0 and the level the target,
which is 0 where the next state is Idle; before it, the elapsed time is below the stage's length and the level on the
ramp. -/
theorem timedStage_keeps_envInv {start target T S : Nat} {after : EnvState} {e : Envelope} (he : EnvInv e)
    (hstart : start ≤ 65536) (htarget : target ≤ 65536) (hT : stageEnd T < 2 ^ 47)
    (hidle : e.state ≠ .idle) (hsustain : e.state ≠ .sustain) (hafter : after = .idle → target = 0) :
    EnvInv (timedStage start target T after S e) := by
  obtain ⟨_, hlevel, hstate, helapsed, hrel⟩ | ⟨hlt, hlevel, hstate, helapsed, hrel⟩ :=
    timedStage_cases start target T after S e (by omega) (by omega) (by omega)
  · exact
      { level_le := hlevel.trans_le htarget
        relStart_le := hrel ▸ he.relStart_le
        elapsed_lt := by simp [helapsed]
        elapsed_idle := fun _ => helapsed
        elapsed_sustain := fun _ => helapsed
        level_idle := fun h => BitVec.eq_of_toNat_eq (hlevel.trans (hafter (hstate ▸ h))) }
  · have hramp := ramp_between (start := start) (target := target) hlt
    exact
      { level_le := by omega
        relStart_le := hrel ▸ he.relStart_le
        elapsed_lt := by omega
        elapsed_idle := fun h => absurd (hstate ▸ h) hidle
        elapsed_sustain := fun h => absurd (hstate ▸ h) hsustain
        level_idle := fun h => absurd (hstate ▸ h) hidle }

theorem envIdle_keeps_envInv {e : Envelope} (he : EnvInv e) : EnvInv (envIdle e) :=
  { he with level_le := by simp [envIdle], level_idle := fun _ => rfl }

theorem envSustain_keeps_envInv {x : Params} {e : Envelope} (he : EnvInv e) (h : e.state = .sustain) :
    EnvInv (envSustain x e) :=
  { he with
    level_le := envSustain_level_toNat x e ▸ effSustain_le x.sustain
    level_idle := fun hidle => by simp [envSustain, h] at hidle }

/-- `ENV_PROCESS` keeps the invariant, whatever the parameters hold (R32, R99). -/
theorem envProcess_keeps_envInv {x : Params} {S : Nat} {e : Envelope} (he : EnvInv e) :
    EnvInv (envProcess x S e) := by
  cases h : e.state with
  | idle =>
    rw [envProcess_idle x S e h]
    exact envIdle_keeps_envInv he
  | attack =>
    rw [envProcess_attack x S e h]
    exact timedStage_keeps_envInv he (by omega) le_rfl (stageEnd_effTime_lt _) (by simp [h]) (by simp [h]) nofun
  | decay =>
    rw [envProcess_decay x S e h]
    exact timedStage_keeps_envInv he le_rfl (effSustain_le _) (stageEnd_effTime_lt _) (by simp [h]) (by simp [h]) nofun
  | sustain =>
    rw [envProcess_sustain x S e h]
    exact envSustain_keeps_envInv he h
  | release =>
    rw [envProcess_release x S e h]
    exact timedStage_keeps_envInv he he.relStart_le (by omega) (stageEnd_effTime_lt _) (by simp [h]) (by simp [h])
      fun _ => rfl

theorem Executes.keeps_envInv {b b' : Block} {i : Instr} {r : Response} (hb : EnvInv b.env)
    (h : Executes b i b' r) : EnvInv b'.env := by
  cases h with
  | noteOn pitch => exact envNoteOn_keeps_envInv hb
  | noteOff => exact envNoteOff_keeps_envInv hb
  | process hS hrate => exact envProcess_keeps_envInv hb
  | badRate | setParam | setUnknown | getParam | getUnknown => exact hb

/-- Settles O56: reset meets the invariant and every command keeps it. -/
theorem envelopeInvariantIsKept : Obligations.EnvelopeInvariantIsKept :=
  ⟨envInv_reset, fun _ _ => step_keeps (P := fun b => EnvInv b.env) envInv_reset Executes.keeps_envInv⟩

end Sys2Proof.Machine
end

section
/-! The oscillator invariant of spec/10_state.md rules R25 and R26, and the invariants after reset. -/

namespace Sys2Proof.Machine

theorem oscInv_reset : OscInv Block.reset.osc := ⟨.inl rfl, fun _ => rfl⟩

/-- The frequency register holds the frequency of a pitch whole (R86). -/
theorem oscSetPitch_freq_toNat (pitch : ByteField) (o : Oscillator) :
    (oscSetPitch (pitchOperand pitch) o).freq.toNat = p2f (pitchOperand pitch) := by
  rw [oscSetPitch_freq, BitVec.toNat_ofNat, Nat.mod_eq_of_lt (p2f_lt pitch)]

/-- Once a pitch is set the frequency is not 0, so nothing is asked of the phase. -/
theorem oscInv_oscSetPitch (pitch : ByteField) (o : Oscillator) : OscInv (oscSetPitch (pitchOperand pitch) o) where
  freq_set := .inr ⟨pitch, oscSetPitch_freq_toNat pitch o⟩
  phase_unset hfreq := by
    have hpos := p2f_pos (pitchOperand pitch)
    rw [← oscSetPitch_freq_toNat pitch o, hfreq] at hpos
    exact absurd hpos (by decide)

/-- At frequency 0 the increment is 0 (R87). -/
@[simp] theorem oscInc_zero_freq (S : Nat) : oscInc 0 S = 0 := by simp [oscInc]

theorem oscAdvance_keeps_oscInv {o : Oscillator} (S : Nat) (ho : OscInv o) : OscInv (oscAdvance S o) where
  freq_set := ho.freq_set
  phase_unset hfreq := by
    rw [oscAdvance_freq] at hfreq
    rw [oscAdvance_phase, hfreq, ho.phase_unset hfreq, oscInc_zero_freq]
    rfl

theorem Executes.keeps_oscInv {b b' : Block} {i : Instr} {r : Response} (hb : OscInv b.osc)
    (h : Executes b i b' r) : OscInv b'.osc := by
  cases h with
  | noteOn pitch => exact oscInv_oscSetPitch pitch b.osc
  | noteOff => exact hb
  | process hS hrate => exact oscAdvance_keeps_oscInv _ hb
  | badRate | setParam | setUnknown | getParam | getUnknown => exact hb

/-- Settles O57: reset meets the invariant and every command keeps it. -/
theorem oscillatorInvariantIsKept : Obligations.OscillatorInvariantIsKept :=
  fun _ _ => step_keeps (P := fun b => OscInv b.osc) oscInv_reset Executes.keeps_oscInv

/-- Settles O1: the eleven elements of `Block.reset` are written as 0 and Idle, and Idle has code 0. -/
theorem resetZeroesEveryElement : Obligations.ResetZeroesEveryElement := by
  unfold Obligations.ResetZeroesEveryElement
  decide

/-- Settles O55: the envelope's and the oscillator's part are the base cases of O56 and O57, and no response stands on
the port after reset. -/
theorem resetMeetsTheInvariants : Obligations.ResetMeetsTheInvariants where
  env := envInv_reset
  osc := oscInv_reset
  port := nofun

end Sys2Proof.Machine
end

section
/-! The frame of each command (spec/10_state.md rule R35): the elements outside its row of the table keep their values.
A failed command writes nothing, and neither does a word that decodes to no command. -/

namespace Sys2Proof

/-- A word that decodes to a command is that command's encoding. -/
theorem encode_eq_of_decode {w : CmdWord} {i : Instr} (h : decode w = .command i) : encode i = w := by
  unfold decode at h
  split at h
  next hrsv => cases h
  next hrsv =>
    rw [← packWord_fields (not_not.mp hrsv)]
    split_ifs at h with hN hZ hR hS hG <;> cases h
    · obtain ⟨hop, hd32⟩ := hN
      rw [hop, hd32, encode]
    · obtain ⟨hop, hb8, hd32⟩ := hZ
      rw [hop, hb8, hd32, encode]
    · obtain ⟨hop, hb8⟩ := hR
      rw [hop, hb8, encode]
    · rw [hS, encode]
    · obtain ⟨hop, hd32⟩ := hG
      rw [hop, hd32, encode]

/-- Every command's word is legal (R58). -/
theorem legalWord_encode (i : Instr) : legalWord (encode i) = true := by
  have hformat : Laws.EncodedInItsFormat.Statement i := by
    cases i with
    | noteOn pitch => exact Laws.EncodedInItsFormat.noteOn pitch
    | noteOff => exact Laws.EncodedInItsFormat.noteOff
    | process rate => exact Laws.EncodedInItsFormat.process rate
    | setParam id value => exact Laws.EncodedInItsFormat.setParam id value
    | getParam id => exact Laws.EncodedInItsFormat.getParam id
  obtain ⟨_, _, hlegal⟩ := hformat
  exact hlegal

/-- A word outside every row of R58 does not decode to a command (R61). -/
theorem illegal_of_not_legalWord {w : CmdWord} (h : legalWord w = false) : ∃ why, decode w = .illegal why := by
  cases hdec : decode w with
  | illegal why => exact ⟨why, rfl⟩
  | command i =>
    have hlegal := encode_eq_of_decode hdec ▸ legalWord_encode i
    simp [h] at hlegal

end Sys2Proof

namespace Sys2Proof.Machine

section Frames
variable {b b' : Block} {r : Response}

theorem Executes.noteOn_frame {pitch : ByteField} (h : Executes b (.noteOn pitch) b' r) :
    b'.x = b.x ∧ b'.osc.phase = b.osc.phase ∧ b'.env.relStart = b.env.relStart := by
  cases h
  exact ⟨rfl, rfl, rfl⟩

theorem Executes.noteOff_frame (h : Executes b .noteOff b' r) :
    b'.x = b.x ∧ b'.osc = b.osc ∧ b'.env.level = b.env.level ∧
      (b.env.state = .idle ∨ b.env.state = .release → b' = b) := by
  cases h
  refine ⟨rfl, rfl, ?_⟩
  rw [blockNoteOff_env]
  obtain ⟨hheld, hoff⟩ | ⟨_, hoff⟩ := envNoteOff_cases b.env
  · rw [hoff, beginRelease_level]
    refine ⟨rfl, fun hdone => ?_⟩
    rcases hheld with h | h | h <;> simp [h] at hdone
  · rw [hoff, blockNoteOff, hoff]
    exact ⟨rfl, fun _ => rfl⟩

theorem Executes.process_frame {rate : DataField} (h : Executes b (.process rate) b' r) :
    b'.x = b.x ∧ b'.osc.freq = b.osc.freq ∧ b'.env.relStart = b.env.relStart ∧ (rate.toInt ≤ 0 → b' = b) := by
  cases h with
  | process hS hrate => exact ⟨rfl, rfl, envProcess_relStart _ _ _, fun hle => by omega⟩
  | badRate hrate => exact ⟨rfl, rfl, rfl, fun _ => rfl⟩

theorem Executes.setParam_frame {id : ByteField} {value : DataField} (h : Executes b (.setParam id value) b' r) :
    b'.osc = b.osc ∧ b'.env = b.env ∧ (∀ p : Param, p.id ≠ id.toNat → b'.x.read p = b.x.read p) ∧
      (5 ≤ id.toNat → b' = b) := by
  cases h with
  | setParam _ hid =>
    have hid := paramOf_eq_some.mp hid
    refine ⟨rfl, rfl, fun q hq => ?_, fun hle => ?_⟩
    · rw [Params.read_write, if_neg]
      rintro rfl
      exact hq hid
    · have := Param.id_le ‹Param›
      omega
  | setUnknown _ hid => exact ⟨rfl, rfl, fun _ _ => rfl, fun _ => rfl⟩

theorem Executes.getParam_frame {id : ByteField} (h : Executes b (.getParam id) b' r) : b' = b := by
  cases h with
  | getParam hid => rfl
  | getUnknown hid => rfl

/-- A command that fails writes no element (R15, R146). -/
theorem Executes.blk_eq_of_error {i : Instr} (h : Executes b i b' r) (hr : r.status ≠ .ok) : b' = b := by
  cases h with
  | noteOn | noteOff | process | setParam => exact absurd rfl hr
  | badRate | setUnknown | getParam | getUnknown => rfl

end Frames

/-- A step that answers an error status writes no element. -/
theorem step_blk_eq_of_error {s t : State} {r : Response} {w : CmdWord} {rest : List HostInput}
    (hin : s.inputs = .command w :: rest) (h : step s = .next t) (hrsp : t.rsp = some r) (hr : r.status ≠ .ok) :
    t.blk = s.blk := by
  obtain ⟨_, _, hreset, _⟩ | ⟨_, _, _, q, _, _, hq, hx⟩ | hblk := step_next_cases h
  · simp [hin] at hreset
  · cases hrsp.symm.trans hq
    exact hx.blk_eq_of_error hr
  · exact hblk

/-- Settles O16: the frame of each command, then the illegal word and the failed command. -/
theorem eachCommandWritesOnlyItsElements : Obligations.EachCommandWritesOnlyItsElements := by
  refine ⟨fun pitch s => ?_, fun s => ?_, fun rate s => ?_, fun id value s => ?_, fun id s => ?_,
    fun s w rest hin hw => ?_, fun s t r w rest => step_blk_eq_of_error⟩
  · obtain ⟨t, _, ht, hin, _, hx⟩ := exists_exec (.noteOn pitch) s
    exact ⟨t, ht, hin, hx.noteOn_frame⟩
  · obtain ⟨t, _, ht, hin, _, hx⟩ := exists_exec .noteOff s
    exact ⟨t, ht, hin, hx.noteOff_frame⟩
  · obtain ⟨t, _, ht, hin, _, hx⟩ := exists_exec (.process rate) s
    exact ⟨t, ht, hin, hx.process_frame⟩
  · obtain ⟨t, _, ht, hin, _, hx⟩ := exists_exec (.setParam id value) s
    exact ⟨t, ht, hin, hx.setParam_frame⟩
  · obtain ⟨t, _, ht, hin, _, hx⟩ := exists_exec (.getParam id) s
    exact ⟨t, ht, hin, hx.getParam_frame⟩
  · obtain ⟨why, hdec⟩ := illegal_of_not_legalWord hw
    exact ⟨_, step_illegal hin hdec, rfl, rfl⟩

end Sys2Proof.Machine
end

section
/-! The release start level outside Release (spec/10_state.md rule R31), as a simulation: two blocks that differ in it
alone run every command to the same response and to blocks that again differ in it alone. -/

namespace Sys2Proof.Machine

/-- The envelope with another release start level. -/
def Envelope.withRelStart (e : Envelope) (v : LevelWord) : Envelope := { e with relStart := v }

/-- The block with another release start level. -/
def Block.withRelStart (b : Block) (v : LevelWord) : Block := { b with env := b.env.withRelStart v }

/-- A timed stage does not look at `env.rel_start`: Release passes its value as the start. -/
theorem timedStage_withRelStart (start target T : Nat) (after : EnvState) (S : Nat) (e : Envelope) (v : LevelWord) :
    timedStage start target T after S (e.withRelStart v) =
      (timedStage start target T after S e).withRelStart v := by
  unfold timedStage
  rw [apply_ite (Envelope.withRelStart · v)]
  rfl

theorem envProcess_withRelStart (x : Params) (S : Nat) {e : Envelope} (v : LevelWord) (h : e.state ≠ .release) :
    envProcess x S (e.withRelStart v) = (envProcess x S e).withRelStart v := by
  have hstate : (e.withRelStart v).state = e.state := rfl
  cases hs : e.state with
  | idle => rw [envProcess_idle _ _ _ hs, envProcess_idle _ _ _ (hstate.trans hs)]; rfl
  | attack =>
    rw [envProcess_attack _ _ _ hs, envProcess_attack _ _ _ (hstate.trans hs)]
    exact timedStage_withRelStart ..
  | decay =>
    rw [envProcess_decay _ _ _ hs, envProcess_decay _ _ _ (hstate.trans hs)]
    exact timedStage_withRelStart ..
  | sustain => rw [envProcess_sustain _ _ _ hs, envProcess_sustain _ _ _ (hstate.trans hs)]; rfl
  | release => exact absurd hs h

theorem blockProcess_withRelStart (S : Nat) {b : Block} (v : LevelWord) (h : b.env.state ≠ .release) :
    blockProcess S (b.withRelStart v) = (blockProcess S b).withRelStart v :=
  congrArg (fun e => { blockProcess S b with env := e }) (envProcess_withRelStart b.x S v h)

theorem blockSample_withRelStart (S : Nat) {b : Block} (v : LevelWord) (h : b.env.state ≠ .release) :
    blockSample S (b.withRelStart v) = blockSample S b := by
  have hlevel : (envProcess b.x S (b.env.withRelStart v)).level = (envProcess b.x S b.env).level := by
    rw [envProcess_withRelStart b.x S v h]
    rfl
  exact congrArg (fun level => sampleWord (oscProcess S b.osc).2 level b.x.masterVolume) hlevel

/-- Where `NOTE_OFF` begins a release it overwrites the stale value, elsewhere it keeps it (R101). -/
theorem exists_envNoteOff_withRelStart (e : Envelope) (v : LevelWord) :
    ∃ v', envNoteOff (e.withRelStart v) = (envNoteOff e).withRelStart v' := by
  obtain ⟨hheld, hoff⟩ | ⟨hdone, hoff⟩ := envNoteOff_cases e
  · refine ⟨e.level, ?_⟩
    rw [hoff]
    rcases hheld with h | h | h <;> simp [envNoteOff, Envelope.withRelStart, beginRelease, h]
  · refine ⟨v, ?_⟩
    rw [hoff]
    rcases hdone with h | h <;> simp [envNoteOff, Envelope.withRelStart, h]

theorem Executes.withRelStart {b b' : Block} {i : Instr} {r : Response} (h : Executes b i b' r)
    (hb : b.env.state ≠ .release) (v : LevelWord) :
    ∃ v', Executes (b.withRelStart v) i (b'.withRelStart v') r := by
  cases h with
  | noteOn pitch => exact ⟨v, .noteOn pitch⟩
  | noteOff =>
    obtain ⟨v', hoff⟩ := exists_envNoteOff_withRelStart b.env v
    have hblk : blockNoteOff (b.withRelStart v) = (blockNoteOff b).withRelStart v' :=
      congrArg (fun e => { b with env := e }) hoff
    exact ⟨v', hblk ▸ .noteOff⟩
  | process hS hrate =>
    refine ⟨v, ?_⟩
    rw [← blockProcess_withRelStart _ v hb, ← blockSample_withRelStart _ v hb]
    exact .process hS hrate
  | badRate hrate => exact ⟨v, .badRate hrate⟩
  | setParam value hid => exact ⟨v, .setParam value hid⟩
  | setUnknown value hid => exact ⟨v, .setUnknown value hid⟩
  | getParam hid => exact ⟨v, .getParam hid⟩
  | getUnknown hid => exact ⟨v, .getUnknown hid⟩

/-- Settles O45: the two runs are related by `Executes.withRelStart`. -/
theorem staleReleaseStartIsNotRead : Obligations.StaleReleaseStartIsNotRead := by
  intro i s stale hs
  obtain ⟨b, r, h⟩ := exists_executes i s.blk
  obtain ⟨_, h'⟩ := h.withRelStart hs stale
  exact ⟨_, _, exec_of_executes h, exec_of_executes (s := { s with blk := s.blk.withRelStart stale }) h',
    rfl, rfl, rfl, rfl, rfl, rfl⟩

end Sys2Proof.Machine
end

section
/-! Time (spec/10_state.md rule R27): only a successful `PROCESS` moves the phase or lets the elapsed time grow. -/

namespace Sys2Proof.Machine

/-- The time of a block stands still from `b` to `b'`: the phase is kept, the elapsed time kept or restarted. -/
def TimeStands (b b' : Block) : Prop :=
  b'.osc.phase = b.osc.phase ∧ (b'.env.elapsed = b.env.elapsed ∨ b'.env.elapsed = 0)

theorem TimeStands.refl (b : Block) : TimeStands b b := ⟨rfl, .inl rfl⟩

theorem timeStands_blockNoteOff (b : Block) : TimeStands b (blockNoteOff b) := by
  refine ⟨rfl, ?_⟩
  rw [blockNoteOff_env]
  obtain ⟨_, hoff⟩ | ⟨_, hoff⟩ := envNoteOff_cases b.env
  · exact .inr (by rw [hoff, beginRelease_elapsed])
  · exact .inl (by rw [hoff])

theorem Executes.timeStands_or_process {b b' : Block} {i : Instr} {r : Response} (h : Executes b i b' r) :
    TimeStands b b' ∨ ∃ rate, i = .process rate ∧ 1 ≤ rate.toInt := by
  cases h with
  | noteOn pitch => exact .inl ⟨rfl, .inr rfl⟩
  | noteOff => exact .inl (timeStands_blockNoteOff b)
  | process hS hrate => exact .inr ⟨_, rfl, by omega⟩
  | badRate | setUnknown | getParam | getUnknown => exact .inl (.refl b)
  | setParam => exact .inl ⟨rfl, .inl rfl⟩

/-- Settles O48: a step resets, runs a command, or leaves the block as it is; of the commands only a successful
`PROCESS` moves time. -/
theorem onlyProcessAdvancesTime : Obligations.OnlyProcessAdvancesTime := by
  intro s t h
  obtain ⟨f, rest, hin, _⟩ | ⟨w, rest, i, r, hin, hdec, _, hx⟩ | hblk := step_next_cases h
  · exact .inr (.inl ⟨f, rest, hin⟩)
  · obtain hstands | ⟨rate, rfl, hrate⟩ := hx.timeStands_or_process
    · exact .inl hstands
    · exact .inr (.inr ⟨w, rest, rate, hin, hdec, hrate⟩)
  · exact .inl (hblk ▸ TimeStands.refl s.blk)

end Sys2Proof.Machine
end

section
/-! Decoder and encoder as inverses (spec/30_encoding.md rules R56, R58, R60). A word decodes to a command exactly when it
is the command's encoding, and a word is a packed word exactly when its fields say so. -/

namespace Sys2Proof

/-- A word is the packing of three fields exactly when these are its fields and its reserved field is 0. -/
theorem packWord_eq_iff {op : OpField} {b8 : ByteField} {d32 : DataField} {w : CmdWord} :
    packWord op b8 d32 = w ↔ rsvField w = 0 ∧ opField w = op ∧ b8Field w = b8 ∧ d32Field w = d32 := by
  constructor
  · rintro rfl
    simp
  · rintro ⟨hrsv, rfl, rfl, rfl⟩
    exact packWord_fields hrsv

theorem decode_encode (i : Instr) : decode (encode i) = .command i := by
  cases i with
  | noteOn pitch => simp [encode, decode]
  | noteOff => simp [encode, decode]
  | process rate => simp [encode, decode]
  | setParam id value => simp [encode, decode]
  | getParam id => simp [encode, decode]

theorem decode_eq_command_iff {w : CmdWord} {i : Instr} : decode w = .command i ↔ encode i = w := by
  constructor
  · exact encode_eq_of_decode
  · rintro rfl
    exact decode_encode i

/-- Settles O8: the fields of a packed word are the ones packed. Every command is well formed, so that hypothesis is not
needed. -/
theorem decodeOfEncodeIsTheCommand : Obligations.DecodeOfEncodeIsTheCommand :=
  fun i _ => decode_encode i

/-- Settles O9: a word that decodes to a command has a zero reserved field, so it is its other fields, packed. -/
theorem encodeOfDecodeIsTheWord : Obligations.EncodeOfDecodeIsTheWord :=
  fun _ _ => encode_eq_of_decode

/-- Settles O6: each word is the encoding of its command. -/
theorem sampleWordsDecode : Obligations.SampleWordsDecode := by
  simp only [Obligations.SampleWordsDecode, decode_eq_command_iff]
  decide

end Sys2Proof
end

section
/-! The `match`/`mask` table of spec/30_encoding.md rule R58 read field by field, and the decoder as that table. -/

namespace Sys2Proof

/-- A word is determined by its four fields (R56). -/
theorem word_eq_iff_fields {w v : CmdWord} :
    w = v ↔ rsvField w = rsvField v ∧ opField w = opField v ∧ b8Field w = b8Field v ∧ d32Field w = d32Field v := by
  constructor
  · rintro rfl
    exact ⟨rfl, rfl, rfl, rfl⟩
  · rintro ⟨hrsv, hop, hb8, hd32⟩
    simp only [rsvField, opField, b8Field, d32Field, ← BitVec.toNat_inj, BitVec.extractLsb'_toNat,
      Nat.shiftRight_eq_div_pow] at hrsv hop hb8 hd32
    apply BitVec.eq_of_toNat_eq
    omega

/-- A row admits a word exactly when each field of the word, under that field of the mask, is that field of the
pattern. -/
theorem FormatRow.admits_iff_fields {row : FormatRow} {w : CmdWord} :
    row.admits w = true ↔
      rsvField w &&& rsvField row.mask = rsvField row.pattern ∧ opField w &&& opField row.mask = opField row.pattern ∧
      b8Field w &&& b8Field row.mask = b8Field row.pattern ∧
      d32Field w &&& d32Field row.mask = d32Field row.pattern := by
  rw [FormatRow.admits, beq_iff_eq, word_eq_iff_fields]
  simp only [rsvField, opField, b8Field, d32Field, BitVec.extractLsb'_and]

/-- The all-ones masks of R58's table, as numerals. -/
theorem opField_and_ones (op : OpField) : op &&& 15#4 = op := BitVec.and_allOnes
theorem b8Field_and_ones (b8 : ByteField) : b8 &&& 255#8 = b8 := BitVec.and_allOnes
theorem d32Field_and_ones (d32 : DataField) : d32 &&& 4294967295#32 = d32 := BitVec.and_allOnes

section Formats
variable {w : CmdWord}

theorem formatN_admits_iff : formatN.admits w = true ↔ rsvField w = 0 ∧ opField w = 1 ∧ d32Field w = 0 := by
  rw [FormatRow.admits_iff_fields]
  simp [formatN, rsvField, opField, b8Field, d32Field, opField_and_ones, d32Field_and_ones]

theorem formatZ_admits_iff :
    formatZ.admits w = true ↔ rsvField w = 0 ∧ opField w = 2 ∧ b8Field w = 0 ∧ d32Field w = 0 := by
  rw [FormatRow.admits_iff_fields]
  simp [formatZ, rsvField, opField, b8Field, d32Field, opField_and_ones, b8Field_and_ones, d32Field_and_ones]

theorem formatR_admits_iff : formatR.admits w = true ↔ rsvField w = 0 ∧ opField w = 3 ∧ b8Field w = 0 := by
  rw [FormatRow.admits_iff_fields]
  simp [formatR, rsvField, opField, b8Field, d32Field, opField_and_ones, b8Field_and_ones]

theorem formatS_admits_iff : formatS.admits w = true ↔ rsvField w = 0 ∧ opField w = 4 := by
  rw [FormatRow.admits_iff_fields]
  simp [formatS, rsvField, opField, b8Field, d32Field, opField_and_ones]

theorem formatG_admits_iff : formatG.admits w = true ↔ rsvField w = 0 ∧ opField w = 5 ∧ d32Field w = 0 := by
  rw [FormatRow.admits_iff_fields]
  simp [formatG, rsvField, opField, b8Field, d32Field, opField_and_ones, d32Field_and_ones]

theorem decode_eq_noteOn_iff {pitch : ByteField} :
    decode w = .command (.noteOn pitch) ↔ formatN.admits w = true ∧ pitch = b8Field w := by
  rw [decode_eq_command_iff, encode, packWord_eq_iff, formatN_admits_iff]
  tauto

theorem decode_eq_noteOff_iff : decode w = .command .noteOff ↔ formatZ.admits w = true := by
  rw [decode_eq_command_iff, encode, packWord_eq_iff, formatZ_admits_iff]

theorem decode_eq_process_iff {rate : DataField} :
    decode w = .command (.process rate) ↔ formatR.admits w = true ∧ rate = d32Field w := by
  rw [decode_eq_command_iff, encode, packWord_eq_iff, formatR_admits_iff]
  tauto

theorem decode_eq_setParam_iff {id : ByteField} {value : DataField} :
    decode w = .command (.setParam id value) ↔
      formatS.admits w = true ∧ id = b8Field w ∧ value = d32Field w := by
  rw [decode_eq_command_iff, encode, packWord_eq_iff, formatS_admits_iff]
  tauto

theorem decode_eq_getParam_iff {id : ByteField} :
    decode w = .command (.getParam id) ↔ formatG.admits w = true ∧ id = b8Field w := by
  rw [decode_eq_command_iff, encode, packWord_eq_iff, formatG_admits_iff]
  tauto

theorem legalWord_iff_formats :
    legalWord w = true ↔ formatN.admits w = true ∨ formatZ.admits w = true ∨ formatR.admits w = true ∨
      formatS.admits w = true ∨ formatG.admits w = true := by
  simp [legalWord, formatRows]

/-- A word is legal exactly when it decodes to a command (R60, R61). -/
theorem legalWord_iff_exists_command : legalWord w = true ↔ ∃ i, decode w = .command i := by
  constructor
  · intro h
    obtain hN | hZ | hR | hS | hG := legalWord_iff_formats.mp h
    · exact ⟨_, decode_eq_noteOn_iff.mpr ⟨hN, rfl⟩⟩
    · exact ⟨_, decode_eq_noteOff_iff.mpr hZ⟩
    · exact ⟨_, decode_eq_process_iff.mpr ⟨hR, rfl⟩⟩
    · exact ⟨_, decode_eq_setParam_iff.mpr ⟨hS, rfl, rfl⟩⟩
    · exact ⟨_, decode_eq_getParam_iff.mpr ⟨hG, rfl⟩⟩
  · rintro ⟨i, h⟩
    exact encode_eq_of_decode h ▸ legalWord_encode i

theorem exists_illegal_iff : (∃ why, decode w = .illegal why) ↔ legalWord w = false := by
  constructor
  · rintro ⟨why, hwhy⟩
    rw [← Bool.not_eq_true, legalWord_iff_exists_command]
    rintro ⟨i, hi⟩
    cases hwhy.symm.trans hi
  · exact illegal_of_not_legalWord

theorem exists_illegal_iff_formats :
    (∃ why, decode w = .illegal why) ↔ ¬ formatN.admits w = true ∧ ¬ formatZ.admits w = true ∧
      ¬ formatR.admits w = true ∧ ¬ formatS.admits w = true ∧ ¬ formatG.admits w = true := by
  rw [exists_illegal_iff, ← Bool.not_eq_true, legalWord_iff_formats]
  simp only [not_or]

end Formats

/-- Settles O7: each clause is one format's, with the row written out. -/
theorem decodingFollowsMatchAndMask : Obligations.DecodingFollowsMatchAndMask := by
  intro w
  have hadmits (row : FormatRow) : w &&& row.mask = row.pattern ↔ row.admits w = true := beq_iff_eq.symm
  refine ⟨fun pitch => ?_, ?_, fun rate => ?_, fun id value => ?_, fun id => ?_, ?_⟩
  · exact decode_eq_noteOn_iff.trans (and_congr_left' (hadmits formatN).symm)
  · exact decode_eq_noteOff_iff.trans (hadmits formatZ).symm
  · exact decode_eq_process_iff.trans (and_congr_left' (hadmits formatR).symm)
  · exact decode_eq_setParam_iff.trans (and_congr_left' (hadmits formatS).symm)
  · exact decode_eq_getParam_iff.trans (and_congr_left' (hadmits formatG).symm)
  · rw [exists_illegal_iff_formats]
    simp only [← hadmits]
    exact Iff.rfl

end Sys2Proof
end

section
/-! The illegal words (spec/30_encoding.md rule R61): the three grounds, and the answer to such a word. -/

namespace Sys2Proof.Machine

/-- An `op` is one of the five operations, or 0, or 6 and above. -/
theorem opField_cases (op : OpField) :
    op = 0 ∨ op = 1 ∨ op = 2 ∨ op = 3 ∨ op = 4 ∨ op = 5 ∨ 6 ≤ op.toNat := by
  revert op
  decide

/-- The grounds of R61, operation by operation. -/
theorem exists_illegal_iff_grounds {w : CmdWord} :
    (∃ why, decode w = .illegal why) ↔
      rsvField w ≠ 0 ∨ opField w = 0 ∨ 6 ≤ (opField w).toNat ∨
      ((opField w = 1 ∨ opField w = 5) ∧ d32Field w ≠ 0) ∨
      (opField w = 2 ∧ (b8Field w ≠ 0 ∨ d32Field w ≠ 0)) ∨ (opField w = 3 ∧ b8Field w ≠ 0) := by
  rw [exists_illegal_iff_formats, formatN_admits_iff, formatZ_admits_iff, formatR_admits_iff, formatS_admits_iff,
    formatG_admits_iff]
  generalize opField w = op
  obtain rfl | rfl | rfl | rfl | rfl | rfl | hop := opField_cases op
  · simp
  · simp [imp_iff_not_or]
  · simp [imp_iff_not_or]
  · simp [imp_iff_not_or]
  · simp
  · simp [imp_iff_not_or]
  · have hne (v : OpField) (hv : v.toNat < 6) : op ≠ v := by
      rintro rfl
      omega
    simp [hop, hne]

/-- Settles O10: the grounds, the answer of `illegalCommand`, and `decode_encode` for the operands that fail later. -/
theorem illegalWordsAnswerIllegalCmd : Obligations.IllegalWordsAnswerIllegalCmd := by
  refine ⟨fun w => exists_illegal_iff_grounds, fun s w rest hin hillegal => ?_,
    fun id value _ => ⟨decode_encode _, decode_encode _⟩, fun rate _ => decode_encode _, ?_, ?_⟩
  · obtain ⟨why, hdec⟩ := hillegal
    exact ⟨_, step_illegal hin hdec, rfl, rfl, rfl⟩
  · exact ⟨.unknownOp, by decide⟩
  · exact ⟨.reservedNotZero, by decide⟩

end Sys2Proof.Machine
end

section
/-! The conversion of a decimal operand (spec/30_encoding.md rule R65). -/

namespace Sys2Proof.Machine

/-- A number is the multiple by `n` of a positive factor exactly when it divides evenly with quotient `n`. -/
theorem mul_eq_iff_emod_ediv {n d m : Int} (hd : 0 < d) : n * d = m ↔ m % d = 0 ∧ m / d = n := by
  constructor
  · rintro rfl
    exact ⟨Int.mul_emod_left n d, Int.mul_ediv_cancel n hd.ne'⟩
  · rintro ⟨hmod, rfl⟩
    exact Int.ediv_mul_cancel (Int.dvd_of_emod_eq_zero hmod)

/-- `fixedWord` answers a word exactly when the division is even and the word is its quotient. -/
theorem fixedWord_eq_ok_iff {fractionBits : Nat} {d : Decimal} {w : DataField} :
    fixedWord fractionBits d = .ok w ↔
      (d.mantissa * 2 ^ fractionBits) % 10 ^ d.scale = 0 ∧
      (d.mantissa * 2 ^ fractionBits) / 10 ^ d.scale = w.toInt := by
  have hlt := w.toInt_lt
  have hle := w.le_toInt
  unfold fixedWord
  generalize (d.mantissa * 2 ^ fractionBits) % 10 ^ d.scale = rem
  generalize (d.mantissa * 2 ^ fractionBits) / 10 ^ d.scale = quot
  split_ifs with hrem hrange
  · simp [hrem]
  · have hquot : (BitVec.ofInt 32 quot).toInt = quot := by
      rw [BitVec.toInt_ofInt, Int.bmod_eq_of_le] <;> omega
    rw [Except.ok.injEq, ← BitVec.toInt_inj, hquot]
    simp [not_not.mp hrem]
  · simp only [false_iff]
    rintro ⟨_, rfl⟩
    exact hrange ⟨hle, by omega⟩

/-- Settles O12: an even division with quotient `w` says that the value of `w` is the number. -/
theorem assemblerNeverRounds : Obligations.AssemblerNeverRounds :=
  fun _ _ _ => fixedWord_eq_ok_iff.trans (mul_eq_iff_emod_ediv (by positivity)).symm

end Sys2Proof.Machine
end

section
/-! The response to a presented word, legal or not (spec/30_encoding.md rule R62), and the form every response has. -/

namespace Sys2Proof.Machine

/-- `Answers b w b' r`: on a block `b` the presented word `w` leaves the block `b'` and is answered with `r`.
`exists_step_answers` and `step_answers_of_rsp` tie it to `step`. -/
inductive Answers (b : Block) (w : CmdWord) : Block → Response → Prop where
  | command {i : Instr} {b' : Block} {r : Response} (hdec : decode w = .command i) (hx : Executes b i b' r) :
      Answers b w b' r
  | illegal {why : Illegal} (hdec : decode w = .illegal why) : Answers b w b (errorResponse .illegalCmd)

/-- Every presented word is taken and answered (R146). -/
theorem exists_step_answers {s : State} {w : CmdWord} {rest : List HostInput} (hin : s.inputs = .command w :: rest) :
    ∃ t r, step s = .next t ∧ t.rsp = some r ∧ t.inputs = rest ∧ Answers s.blk w t.blk r := by
  cases hdec : decode w with
  | command i =>
    obtain ⟨t, r, hexec, hrest, hrsp, hx⟩ := exists_exec i (takeInput rest s)
    exact ⟨t, r, (step_command hin hdec).trans hexec, hrsp, hrest, .command hdec hx⟩
  | illegal why => exact ⟨_, _, step_illegal hin hdec, rfl, rfl, .illegal hdec⟩

/-- A response on the port after a step answers the word the step took. -/
theorem step_answers_of_rsp {s t : State} {r : Response} (h : step s = .next t) (hrsp : t.rsp = some r) :
    ∃ w, Answers s.blk w t.blk r := by
  obtain ⟨_, hstep⟩ | ⟨_, _, _, hstep⟩ | ⟨w, _, _, hin, _⟩ | ⟨w, _, _, hin, _⟩ := step_cases s
  · cases hstep.symm.trans h
    cases hrsp
  · cases hstep.symm.trans h
    cases hrsp
  all_goals
    obtain ⟨u, q, hu, hq, _, hanswers⟩ := exists_step_answers hin
    cases hu.symm.trans h
    cases hq.symm.trans hrsp
    exact ⟨w, hanswers⟩

/-- The sample is the sign of the advanced phase times the new level times the master volume (R124). -/
theorem blockSample_toInt (S : Nat) (b : Block) :
    (blockSample S b).toInt = (if (blockProcess S b).osc.phase.toNat < 2 ^ 31 then 1 else -1) *
      ((blockProcess S b).env.level.toNat : Int) * b.x.masterVolume.toInt :=
  (sampleWord_toInt _ _ _).trans (by rw [← phaseSign_toInt]; rfl)

section Rows
variable {b b' : Block} {w : CmdWord} {r : Response}

theorem Answers.executes {i : Instr} (h : Answers b w b' r) (hdec : decode w = .command i) : Executes b i b' r := by
  cases h with
  | command hdec' hx =>
    cases hdec.symm.trans hdec'
    exact hx
  | illegal hdec' => cases hdec.symm.trans hdec'

theorem Answers.noteOn_row (h : Answers b w b' r) (hw : formatN.admits w = true) : r = ⟨.ok, 0, 0, 0⟩ := by
  cases h.executes (decode_eq_noteOn_iff.mpr ⟨hw, rfl⟩)
  rfl

theorem Answers.noteOff_row (h : Answers b w b' r) (hw : formatZ.admits w = true) : r = ⟨.ok, 0, 0, 0⟩ := by
  cases h.executes (decode_eq_noteOff_iff.mpr hw)
  rfl

theorem Answers.process_row (h : Answers b w b' r) (hw : formatR.admits w = true) (hrate : 1 ≤ (d32Field w).toInt) :
    r.status = .ok ∧ r.right = r.left ∧ r.value = 0 ∧
      r.left.toInt = (if b'.osc.phase.toNat < 2 ^ 31 then 1 else -1) * (b'.env.level.toNat : Int) *
        b.x.masterVolume.toInt := by
  cases h.executes (decode_eq_process_iff.mpr ⟨hw, rfl⟩) with
  | process hS hrate' => exact ⟨rfl, rfl, rfl, blockSample_toInt _ b⟩
  | badRate hle => omega

theorem Answers.badRate_row (h : Answers b w b' r) (hw : formatR.admits w = true) (hrate : (d32Field w).toInt ≤ 0) :
    r = errorResponse .badRate := by
  cases h.executes (decode_eq_process_iff.mpr ⟨hw, rfl⟩) with
  | process hS hrate' => omega
  | badRate hle => rfl

theorem Answers.setParam_row (h : Answers b w b' r) (hw : formatS.admits w = true) (hid : (b8Field w).toNat ≤ 4) :
    r = ⟨.ok, 0, 0, 0⟩ := by
  cases h.executes (decode_eq_setParam_iff.mpr ⟨hw, rfl, rfl⟩) with
  | setParam => rfl
  | setUnknown _ hnone =>
    have := paramOf_eq_none.mp hnone
    omega

theorem Answers.setUnknown_row (h : Answers b w b' r) (hw : formatS.admits w = true) (hid : 5 ≤ (b8Field w).toNat) :
    r = errorResponse .unknownParam := by
  cases h.executes (decode_eq_setParam_iff.mpr ⟨hw, rfl, rfl⟩) with
  | setParam _ hsome => simp [paramOf_eq_none.mpr hid] at hsome
  | setUnknown => rfl

theorem Answers.getParam_row (h : Answers b w b' r) (hw : formatG.admits w = true) (p : Param)
    (hid : (b8Field w).toNat = p.id) : r = ⟨.ok, 0, 0, b.x.read p⟩ := by
  cases h.executes (decode_eq_getParam_iff.mpr ⟨hw, rfl⟩) with
  | getParam hsome =>
    rw [hid, paramOf_id] at hsome
    cases hsome
    rfl
  | getUnknown hnone => simp [hid] at hnone

theorem Answers.getUnknown_row (h : Answers b w b' r) (hw : formatG.admits w = true) (hid : 5 ≤ (b8Field w).toNat) :
    r = errorResponse .unknownParam := by
  cases h.executes (decode_eq_getParam_iff.mpr ⟨hw, rfl⟩) with
  | getParam hsome => simp [paramOf_eq_none.mpr hid] at hsome
  | getUnknown => rfl

theorem Answers.illegal_row (h : Answers b w b' r) (hw : legalWord w = false) : r = errorResponse .illegalCmd := by
  cases h with
  | command hdec _ => simp [legalWord_iff_exists_command.mpr ⟨_, hdec⟩] at hw
  | illegal => rfl

end Rows

/-- Settles O13: the word is answered, and each clause is its row of R62's table. -/
theorem responsesFollowTheTable : Obligations.ResponsesFollowTheTable := by
  intro s w rest hin
  obtain ⟨t, r, hstep, hrsp, hrest, h⟩ := exists_step_answers hin
  exact ⟨t, r, hstep, hrsp, hrest, h.noteOn_row, h.noteOff_row, h.process_row, h.badRate_row, h.setParam_row,
    h.setUnknown_row, h.getParam_row, h.getUnknown_row, h.illegal_row⟩

theorem responseInv_ok_value (v : ParamWord) : ResponseInv ⟨.ok, 0, 0, v⟩ where
  right_eq := rfl
  left_bound := by simp
  error_zero hstatus := absurd rfl hstatus
  one_payload := .inl rfl

theorem responseInv_errorResponse (e : Status) : ResponseInv (errorResponse e) where
  right_eq := rfl
  left_bound := by simp [errorResponse]
  error_zero _ := ⟨rfl, rfl⟩
  one_payload := .inl rfl

/-- A level of at most 1.0 times any volume is within 2^47 of 0 (R121). -/
theorem sampleWord_natAbs_le (sgn : Sign) {level : LevelWord} (volume : ParamWord) (hlevel : level.toNat ≤ 65536) :
    (sampleWord sgn level volume).toInt.natAbs ≤ 2 ^ 47 := by
  have hvolume : volume.toInt.natAbs ≤ 2 ^ 31 := by
    have hlt := volume.toInt_lt
    have hle := volume.le_toInt
    omega
  have hsgn : sgn.toInt.natAbs = 1 := by cases sgn <;> rfl
  rw [sampleWord_toInt, Int.natAbs_mul, Int.natAbs_mul, hsgn, Int.natAbs_natCast, one_mul]
  calc level.toNat * volume.toInt.natAbs ≤ 65536 * 2 ^ 31 := Nat.mul_le_mul hlevel hvolume
    _ = 2 ^ 47 := by norm_num

theorem responseInv_sample {S : Nat} {b : Block} (hb : EnvInv b.env) :
    ResponseInv ⟨.ok, blockSample S b, blockSample S b, 0⟩ where
  right_eq := rfl
  left_bound := sampleWord_natAbs_le _ _ (envProcess_keeps_envInv hb).level_le
  error_zero hstatus := absurd rfl hstatus
  one_payload := .inr rfl

theorem Executes.responseInv {b b' : Block} {i : Instr} {r : Response} (hb : EnvInv b.env) (h : Executes b i b' r) :
    ResponseInv r := by
  cases h with
  | noteOn | noteOff | setParam | getParam => exact responseInv_ok_value _
  | process hS hrate => exact responseInv_sample hb
  | badRate | setUnknown | getUnknown => exact responseInv_errorResponse _

theorem Answers.responseInv {b b' : Block} {w : CmdWord} {r : Response} (hb : EnvInv b.env) (h : Answers b w b' r) :
    ResponseInv r := by
  cases h with
  | command _ hx => exact hx.responseInv hb
  | illegal _ => exact responseInv_errorResponse _

/-- Settles O58: a response on the port answers a word, and every answer has the form; the envelope's invariant bounds
the level of the sample. -/
theorem responsesKeepTheirForm : Obligations.ResponsesKeepTheirForm := by
  intro s t r hs h hrsp
  obtain ⟨w, hanswers⟩ := step_answers_of_rsp h hrsp
  exact hanswers.responseInv hs

end Sys2Proof.Machine
end

section
/-! A word placed from outside the machine (log entry 1), and the codes of the statuses and of the envelope states
(spec/30_encoding.md rule R63, spec/10_state.md rule R28). -/

namespace Sys2Proof.Machine

theorem command?_eq_some {d : Decoded} {i : Instr} : d.command? = some i ↔ d = .command i := by
  cases d <;> simp [Decoded.command?]

theorem decode_tableWord {nbits w : Nat} {i : Instr} (h : decodeTableWord nbits w = some i) :
    decode (tableWord nbits w) = .command i := by
  unfold decodeTableWord at h
  split at h
  · exact command?_eq_some.mp h
  · cases h

/-- Taking the placed word gives back the state before the placing. -/
theorem takeInput_withFetchWord (s : State) (nbits w : Nat) : takeInput s.inputs (s.withFetchWord nbits w) = s := rfl

/-- Settles O5: the placed word is the step's host input. -/
theorem placedWordRunsNext : Obligations.PlacedWordRunsNext := by
  intro s nbits w i h
  calc step (s.withFetchWord nbits w) = exec i (takeInput s.inputs (s.withFetchWord nbits w)) :=
        step_command rfl (decode_tableWord h)
    _ = exec i s := by rw [takeInput_withFetchWord]

/-- A code is a status's exactly when reading it gives that status back (R63). -/
theorem Status.ofCode_eq_some {c : StatusCode} {e : Status} : Status.ofCode c = some e ↔ e.code = c := by
  revert c
  cases e <;> decide

/-- A code is an envelope state's exactly when reading it gives that state back (R28). -/
theorem EnvState.ofCode_eq_some {c : StateCode} {e : EnvState} : EnvState.ofCode c = some e ↔ e.code = c := by
  revert c
  cases e <;> decide

theorem Status.ofCode_eq_none {c : StatusCode} : Status.ofCode c = none ↔ 4 ≤ c.toNat := by
  revert c
  decide

theorem EnvState.ofCode_eq_none {c : StateCode} : EnvState.ofCode c = none ↔ 5 ≤ c.toNat := by
  revert c
  decide

/-- Settles O11: the codes are as written; a code names nothing exactly when reading it fails. -/
theorem statusAndStateCodes : Obligations.StatusAndStateCodes := by
  refine ⟨rfl, rfl, rfl, rfl, rfl, rfl, rfl, rfl, rfl, fun c => ?_, fun c => ?_,
    fun _ => Status.ofCode_eq_some.mpr rfl, fun _ => EnvState.ofCode_eq_some.mpr rfl⟩
  · rw [← Status.ofCode_eq_none, Option.eq_none_iff_forall_ne_some]
    simp only [ne_eq, Status.ofCode_eq_some]
  · rw [← EnvState.ofCode_eq_none, Option.eq_none_iff_forall_ne_some]
    simp only [ne_eq, EnvState.ofCode_eq_some]

end Sys2Proof.Machine
end

section
/-! The pitch converter (spec/40_pitch_to_frequency.md). A pitch is taken apart once, as the note of table index `i` that
lies `k` octaves below the table's octave; what `P2F` gives there (R77) is the only fact about it that the obligations
use. -/

namespace Sys2Proof.Machine

/-- The pitch of table index `i`, `k` octaves below the table's octave of notes 116 to 127 (R76, R77). -/
def notePitch (i : Fin 12) (k : Nat) : Int := 116 + i.val - 12 * k

/-- Every pitch of the command's domain is such a note, at most 21 octaves down (R77). -/
theorem exists_notePitch {p : Int} (hlo : -128 ≤ p) (hhi : p ≤ 127) : ∃ i k, k ≤ 21 ∧ p = notePitch i k := by
  refine ⟨octaveIndex p, octaveBelowTop p, ?_, ?_⟩
  · unfold octaveBelowTop semitonesBelowTop
    omega
  · simp only [notePitch, octaveIndex, octaveBelowTop, semitonesBelowTop]
    omega

@[simp] theorem semitonesBelowTop_notePitch (i : Fin 12) (k : Nat) :
    semitonesBelowTop (notePitch i k) = 12 * k + (11 - i.val) := by
  unfold semitonesBelowTop notePitch
  omega

@[simp] theorem octaveBelowTop_notePitch (i : Fin 12) (k : Nat) : octaveBelowTop (notePitch i k) = k := by
  rw [octaveBelowTop, semitonesBelowTop_notePitch]
  omega

@[simp] theorem octaveIndex_notePitch (i : Fin 12) (k : Nat) : octaveIndex (notePitch i k) = i := by
  ext
  simp only [octaveIndex, semitonesBelowTop_notePitch]
  omega

theorem p2f_notePitch (i : Fin 12) (k : Nat) : p2f (notePitch i k) = (pitchTable[i]).toNat * 2 ^ (22 - k) := by
  simp only [p2f, octaveIndex_notePitch, octaveBelowTop_notePitch]

/-- No bit is lost by the shift: the frequency in Hz is the table's, halved once per octave (R77). -/
theorem p2f_notePitch_div {K : Type} [Field K] [CharZero K] (i : Fin 12) {k : Nat} (hk : k ≤ 22) :
    (p2f (notePitch i k) : K) / 2 ^ 40 = (pitchTable[i]).toNat / (2 ^ 18 * 2 ^ k) := by
  have hpow : (2 : K) ^ (22 - k) * (2 ^ 18 * 2 ^ k) = 2 ^ 40 := by
    rw [← pow_add, ← pow_add]
    congr 1
    omega
  rw [p2f_notePitch, div_eq_div_iff (by simp) (by simp), ← hpow]
  push_cast
  ring

/-- Going up an octave halves the distance to the table's octave (R78 (a)). -/
theorem p2f_notePitch_octave (i : Fin 12) {k : Nat} (hk : k ≤ 21) :
    p2f (notePitch i k) = 2 * p2f (notePitch i (k + 1)) := by
  have hexp : 22 - k = 22 - (k + 1) + 1 := by omega
  rw [p2f_notePitch, p2f_notePitch, hexp, pow_succ]
  ring

theorem pitchTable_strictMono : ∀ i j : Fin 12, i < j → (pitchTable[i]).toNat < (pitchTable[j]).toNat := by
  decide

/-- The table spans less than an octave, so that a lower octave stays below (R78 (c)). -/
theorem pitchTable_lt_two_mul (i j : Fin 12) : (pitchTable[i]).toNat < 2 * (pitchTable[j]).toNat := by
  revert i j; decide

/-- R78 (c): inside an octave the table decides, across octaves the shift. -/
theorem p2f_notePitch_lt {i j : Fin 12} {k l : Nat} (hk : k ≤ 21) (h : notePitch i k < notePitch j l) :
    p2f (notePitch i k) < p2f (notePitch j l) := by
  simp only [notePitch] at h
  rw [p2f_notePitch, p2f_notePitch]
  obtain ⟨rfl, hij⟩ | hlk : (l = k ∧ i < j) ∨ l < k := by omega
  · exact Nat.mul_lt_mul_of_pos_right (pitchTable_strictMono i j hij) (by positivity)
  · calc (pitchTable[i]).toNat * 2 ^ (22 - k)
        < 2 * (pitchTable[j]).toNat * 2 ^ (22 - k) :=
          Nat.mul_lt_mul_of_pos_right (pitchTable_lt_two_mul i j) (by positivity)
      _ = (pitchTable[j]).toNat * 2 ^ (22 - k + 1) := by ring
      _ ≤ (pitchTable[j]).toNat * 2 ^ (22 - l) :=
          Nat.mul_le_mul_left _ (Nat.pow_le_pow_right (by decide) (by omega))

theorem p2f_lt_of_lt {p q : Int} (hp : -128 ≤ p) (hpq : p < q) (hq : q ≤ 127) : p2f p < p2f q := by
  obtain ⟨i, k, hk, rfl⟩ := exists_notePitch hp (by omega)
  obtain ⟨j, l, _, rfl⟩ := exists_notePitch (by omega : -128 ≤ q) hq
  exact p2f_notePitch_lt hk hpq

theorem p2f_le_of_le {p q : Int} (hp : -128 ≤ p) (hpq : p ≤ q) (hq : q ≤ 127) : p2f p ≤ p2f q := by
  obtain rfl | hlt := hpq.eq_or_lt
  · rfl
  · exact (p2f_lt_of_lt hp hlt hq).le

theorem p2f_lowest : p2f (-128) = 5530232722 := by decide

theorem p2f_highest : p2f 127 = 13792113275699200 := by decide

/-- (a) of R78, from the octave of a note. -/
theorem p2f_add_twelve {p : Int} (hlo : -128 ≤ p) (hhi : p ≤ 115) : p2f (p + 12) = 2 * p2f p := by
  obtain ⟨i, k, hk, rfl⟩ := exists_notePitch hlo (by omega : p ≤ 127)
  obtain _ | k := k
  · simp only [notePitch] at hhi
    omega
  · have hup : notePitch i (k + 1) + 12 = notePitch i k := by
      simp only [notePitch]
      push_cast
      ring
    rw [hup]
    exact p2f_notePitch_octave i (by omega)

/-- `T[1]` is 7040 Hz, four octaves above 440 Hz, with no rounding (R76). -/
theorem pitchTable_one : (pitchTable[(1 : Fin 12)]).toNat = 440 * 2 ^ 4 * 2 ^ 18 := by decide

/-- (b) of R78, because `T[1]` is exact. -/
theorem p2f_octaves_of_69 {k : Int} (hlo : -16 ≤ k) (hhi : k ≤ 4) :
    (p2f (69 + 12 * k) : ℚ) / 2 ^ 40 = 440 * (2 : ℚ) ^ k := by
  obtain ⟨n, hn⟩ : ∃ n : Nat, k = 4 - n := ⟨(4 - k).toNat, by omega⟩
  have hpitch : 69 + 12 * k = notePitch 1 n := by
    simp only [hn, notePitch, Fin.val_one]
    ring
  rw [hpitch, p2f_notePitch_div 1 (by omega), pitchTable_one, hn, zpow_sub₀ (by norm_num), zpow_natCast]
  push_cast
  field_simp
  norm_num

/-- Settles O27. -/
theorem pitchLaws : Obligations.PitchLaws :=
  ⟨fun _ => p2f_add_twelve, fun _ => p2f_octaves_of_69, fun _ _ => p2f_lt_of_lt, pitchTable_strictMono,
    by decide, by decide, pitchTable_lt_two_mul 11 0⟩

/-- Settles O28: `P2F` is increasing, so its values lie between those of the two ends. -/
theorem pitchRange : Obligations.PitchRange := by
  refine ⟨fun p hlo hhi => ?_, p2f_lowest, by decide, by decide, by decide, by decide, ?_, p2f_highest, by decide, ?_⟩
  · have hmin : 5530232722 ≤ p2f p := p2f_lowest ▸ p2f_le_of_le le_rfl hlo hhi
    have hmax : p2f p ≤ 13792113275699200 := p2f_highest ▸ p2f_le_of_le hlo hhi le_rfl
    exact ⟨p2f_pos p, hmin, hmax, by omega⟩
  · rw [p2f_lowest]
    norm_num [abs_lt]
  · rw [p2f_highest]
    norm_num [abs_lt]

/-- Settles O29: pitches 0 and 60 are the note of table index 4, ten and five octaves down. -/
theorem pitchCornerCases : Obligations.PitchCornerCases := by
  have h0 : p2f 0 = 2194674310 * 2 ^ 12 := p2f_notePitch 4 10
  have h60 : p2f 60 = 2194674310 * 2 ^ 17 := p2f_notePitch 4 5
  refine ⟨by decide, by decide, by decide, by decide,
    ⟨by decide, by decide, by decide, by decide, h0, h0, ?_⟩,
    by decide, by decide, by decide, by decide, h60, h60, ?_⟩
  · rw [h0]
    norm_num [abs_lt]
  · rw [h60]
    norm_num [abs_lt]

end Sys2Proof.Machine
end

section
/-! The pitch table against the equal-tempered frequencies of R75. A frequency of the table's octave is irrational but
its twelfth power is a natural number, so comparing it with a rational is a comparison of natural numbers. -/

namespace Sys2Proof.Machine

/-- `f(p) = 440 * 2^((p - 69) / 12)` Hz (R75). -/
noncomputable def idealFreq (p : Int) : ℝ := 440 * (2 : ℝ) ^ (((p : ℝ) - 69) / 12)

/-- `f(116 + i)` in units of 2^-18 Hz, the number that `T[i]` rounds (R76). -/
noncomputable def idealEntry (i : Fin 12) : ℝ := 440 * (2 : ℝ) ^ (((47 : ℝ) + (i.val : ℝ)) / 12) * 2 ^ 18

/-- The twelfth power of `idealEntry i` (`idealEntry_pow`). -/
def idealEntryPow (i : Fin 12) : Nat := (440 * 2 ^ 18) ^ 12 * 2 ^ (47 + i.val)

theorem idealEntry_pos (i : Fin 12) : 0 < idealEntry i := by
  unfold idealEntry
  positivity

theorem idealEntry_pow (i : Fin 12) : idealEntry i ^ 12 = idealEntryPow i := by
  have hroot : ((2 : ℝ) ^ (((47 : ℝ) + (i.val : ℝ)) / 12)) ^ 12 = 2 ^ (47 + i.val) := by
    rw [← Real.rpow_mul_natCast (by norm_num), ← Real.rpow_natCast]
    congr 1
    push_cast
    ring
  unfold idealEntry idealEntryPow
  rw [mul_right_comm, mul_pow, hroot]
  norm_num

theorem natCast_lt_mul_idealEntry {a b : Nat} {i : Fin 12} :
    (a : ℝ) < b * idealEntry i ↔ a ^ 12 < b ^ 12 * idealEntryPow i := by
  have hpos := idealEntry_pos i
  rw [← pow_lt_pow_iff_left₀ (by positivity) (by positivity) (by decide : 12 ≠ 0), mul_pow, idealEntry_pow]
  exact_mod_cast Iff.rfl

theorem mul_idealEntry_lt_natCast {a b : Nat} {i : Fin 12} :
    b * idealEntry i < (a : ℝ) ↔ b ^ 12 * idealEntryPow i < a ^ 12 := by
  have hpos := idealEntry_pos i
  rw [← pow_lt_pow_iff_left₀ (by positivity) (by positivity) (by decide : 12 ≠ 0), mul_pow, idealEntry_pow]
  exact_mod_cast Iff.rfl

/-- R76 on natural numbers: twice the ideal entry lies strictly between `2 T[i] - 1` and `2 T[i] + 1`. -/
theorem idealEntryPow_rounds (i : Fin 12) :
    (2 * (pitchTable[i]).toNat - 1) ^ 12 < 2 ^ 12 * idealEntryPow i ∧
      2 ^ 12 * idealEntryPow i < (2 * (pitchTable[i]).toNat + 1) ^ 12 := by
  revert i; decide

/-- R79 on natural numbers: `10^11 T[i]` lies strictly between `10^11 - 21` and `10^11 + 21` ideal entries. -/
theorem idealEntryPow_accuracy (i : Fin 12) :
    99999999979 ^ 12 * idealEntryPow i < (100000000000 * (pitchTable[i]).toNat) ^ 12 ∧
      (100000000000 * (pitchTable[i]).toNat) ^ 12 < 100000000021 ^ 12 * idealEntryPow i := by
  revert i; decide

/-- Settles O25. -/
theorem pitchTableIsRoundedToNearest : Obligations.PitchTableIsRoundedToNearest := by
  intro i
  obtain ⟨hlo, hhi⟩ := idealEntryPow_rounds i
  have hlo := natCast_lt_mul_idealEntry.mpr hlo
  have hhi := mul_idealEntry_lt_natCast.mpr hhi
  rw [Nat.cast_sub (by have := pitchTable_ge i; omega)] at hlo
  push_cast at hlo hhi
  change |_ - idealEntry i| < _
  rw [abs_lt]
  constructor <;> linarith

/-- The table entries meet the bound of R79. -/
theorem pitchTable_accuracy (i : Fin 12) :
    |((pitchTable[i]).toNat : ℝ) - idealEntry i| ≤ 21 / 100000000000 * idealEntry i := by
  obtain ⟨hlo, hhi⟩ := idealEntryPow_accuracy i
  have hlo := mul_idealEntry_lt_natCast.mpr hlo
  have hhi := natCast_lt_mul_idealEntry.mpr hhi
  push_cast at hlo hhi
  rw [abs_le]
  constructor <;> linarith

/-- The ideal frequency halves once per octave, as the table's value does in `p2f_notePitch_div`. -/
theorem idealFreq_notePitch (i : Fin 12) (k : Nat) :
    idealFreq (notePitch i k) = idealEntry i / (2 ^ 18 * 2 ^ k) := by
  have hexp : ((notePitch i k : ℝ) - 69) / 12 = ((47 : ℝ) + (i.val : ℝ)) / 12 - k := by
    unfold notePitch
    push_cast
    ring
  rw [idealFreq, idealEntry, hexp, Real.rpow_sub_natCast (by norm_num)]
  field_simp

/-- Settles O26: the octaves divide out, and what is left is the error of the table's entry. -/
theorem pitchAccuracy : Obligations.PitchAccuracy := by
  intro p hlo hhi
  change |_ - idealFreq p| / idealFreq p ≤ _
  obtain ⟨i, k, hk, rfl⟩ := exists_notePitch hlo hhi
  have hpos := idealEntry_pos i
  have hscale : (0 : ℝ) < 2 ^ 18 * 2 ^ k := by positivity
  rw [p2f_notePitch_div i (by omega), idealFreq_notePitch, ← sub_div, abs_div, abs_of_pos hscale,
    div_div_div_cancel_right₀ hscale.ne', div_le_iff₀ hpos]
  exact pitchTable_accuracy i

end Sys2Proof.Machine
end

section
/-! Runs of the machine, once for all claims about them: a property that every step keeps holds after any number of
steps, and a run of `PROCESS` is an iteration of `blockProcess`. -/

namespace Sys2Proof.Machine

/-- A step goes on (R146) and takes the first of the host's inputs, if there is one. -/
theorem exists_step (s : State) : ∃ t, step s = .next t ∧ t.inputs = s.inputs.tail := by
  obtain ⟨hin, hstep⟩ | ⟨_, _, hin, hstep⟩ | ⟨_, _, _, hin, _⟩ | ⟨_, _, _, hin, _, hstep⟩ := step_cases s
  · exact ⟨_, hstep, by simp [hin]⟩
  · exact ⟨_, hstep, by simp [hin]⟩
  · obtain ⟨t, _, hstep, _, hrest, _⟩ := exists_step_answers hin
    exact ⟨t, hstep, by simp [hrest, hin]⟩
  · exact ⟨_, hstep, by simp [hin]⟩

/-- A run goes on, and keeps what every step keeps. -/
theorem exists_runSteps_of_step {P : State → Prop} (hkeep : ∀ {s t}, P s → step s = .next t → P t) (n : Nat)
    {s : State} (hs : P s) : ∃ t, runSteps n s = .next t ∧ P t := by
  induction n generalizing s with
  | zero => exact ⟨s, rfl, hs⟩
  | succ n ih =>
    obtain ⟨u, hstep, _⟩ := exists_step s
    rw [runSteps_succ hstep]
    exact ih (hkeep hs hstep)

theorem step_process {s : State} {rate : DataField} {S : Nat} {rest : List HostInput} (hS : 1 ≤ S)
    (hrate : rate.toInt = S) (hin : s.inputs = .command (encode (.process rate)) :: rest) :
    step s = .next (respond (blockProcess S s.blk) .ok (blockSample S s.blk) (blockSample S s.blk) 0
      (takeInput rest s)) :=
  (step_command hin (decode_encode _)).trans (execProcess_pos _ hS hrate)

/-- `n` samples at one rate are `n` advances of the block. -/
theorem exists_runSteps_process {rate : DataField} {S : Nat} (hS : 1 ≤ S) (hrate : rate.toInt = S) (n : Nat)
    (s : State) :
    ∃ t, runSteps n { s with inputs := List.replicate n (.command (encode (.process rate))) } = .next t ∧
      t.blk = (blockProcess S)^[n] s.blk := by
  induction n generalizing s with
  | zero => exact ⟨_, rfl, rfl⟩
  | succ n ih =>
    rw [runSteps_succ (step_process hS hrate List.replicate_succ)]
    exact ih (respond (blockProcess S s.blk) .ok (blockSample S s.blk) (blockSample S s.blk) 0 s)

end Sys2Proof.Machine
end

section
/-! The phase over a run of samples (spec/41_oscillator.md rules R88, R93). -/

namespace Sys2Proof.Machine

/-- The oscillator runs independently of the rest of the block (R127). -/
theorem blockProcess_iterate_osc (S n : Nat) (b : Block) :
    ((blockProcess S)^[n] b).osc = (oscAdvance S)^[n] b.osc :=
  Function.Semiconj.iterate_right (f := Block.osc) (blockProcess_osc S) n b

theorem oscAdvance_iterate_freq (S n : Nat) (o : Oscillator) : ((oscAdvance S)^[n] o).freq = o.freq := by
  induction n with
  | zero => rfl
  | succ n ih => rw [Function.iterate_succ_apply', oscAdvance_freq, ih]

theorem oscAdvance_iterate_phase_toNat (S n : Nat) (o : Oscillator) :
    ((oscAdvance S)^[n] o).phase.toNat = (o.phase.toNat + n * (o.freq.toNat / S)) % 2 ^ 32 := by
  induction n with
  | zero => simpa using (Nat.mod_eq_of_lt o.phase.isLt).symm
  | succ n ih =>
    rw [Function.iterate_succ_apply', oscAdvance_phase_toNat, ih, oscAdvance_iterate_freq, Nat.mod_add_mod]
    ring_nf

/-- Settles O49. -/
theorem phaseAfterManySamples : Obligations.PhaseAfterManySamples := by
  intro rate S n s hS hrate
  obtain ⟨t, hrun, hblk⟩ := exists_runSteps_process hS hrate n s
  have hosc : t.blk.osc = (oscAdvance S)^[n] s.blk.osc := by rw [hblk, blockProcess_iterate_osc]
  refine ⟨t, hrun, ?_, ?_⟩
  · rw [hosc, oscAdvance_iterate_phase_toNat]
  · rw [hosc, oscAdvance_iterate_freq]

theorem phaseSign_eq_iff {a b : PhaseWord} : phaseSign a = phaseSign b ↔ (a.toNat < 2 ^ 31 ↔ b.toNat < 2 ^ 31) := by
  unfold phaseSign
  split_ifs with ha hb hb <;> simp [-Nat.reducePow, ha, hb]

/-- Advanced by `m`, and by less than two boundaries, the phase is in the same half cycle exactly when it has not come to
the next boundary. -/
theorem phaseSign_eq_iff_of_advance {a b : PhaseWord} {m : Nat} (hb : b.toNat = (a.toNat + m) % 2 ^ 32)
    (hm : a.toNat % 2 ^ 31 + m < 2 ^ 32) : phaseSign b = phaseSign a ↔ a.toNat % 2 ^ 31 + m < 2 ^ 31 := by
  have ha := a.isLt
  rw [phaseSign_eq_iff]
  omega

/-- Steps of length `I` from `r < I` first come to `H` after `H / I` steps or one more, and then lie less than `I` past
it. -/
theorem exists_steps_to_boundary {H I r : Nat} (hr : r < I) :
    ∃ L, (L = H / I ∨ L = H / I + 1) ∧ (∀ k < L, r + k * I < H) ∧ H ≤ r + L * I ∧ r + L * I < H + I := by
  have hH : H / I * I + H % I = H := Nat.div_add_mod' H I
  have hmod : H % I < I := Nat.mod_lt H (by omega)
  obtain hle | hlt := le_or_gt (H % I) r
  · refine ⟨H / I, .inl rfl, fun k hk => ?_, by omega, by omega⟩
    have hstep : (k + 1) * I ≤ H / I * I := Nat.mul_le_mul_right I hk
    rw [add_one_mul] at hstep
    omega
  · have hlast : (H / I + 1) * I = H / I * I + I := add_one_mul _ _
    refine ⟨H / I + 1, .inr rfl, fun k hk => ?_, by omega, by omega⟩
    have hstep : k * I ≤ H / I * I := Nat.mul_le_mul_right I (by omega)
    omega

/-- Settles O50: the half cycle ends with the first sample that comes to the boundary, and that one does not come to the
boundary after it. -/
theorem halfCycleLength : Obligations.HalfCycleLength := by
  intro rate S I s hS hrate hI _ hI31 hphase
  obtain ⟨L, hL, hbefore, hreach, hpast⟩ := exists_steps_to_boundary (H := 2 ^ 31) hphase
  refine ⟨L, hL, fun k hk => ?_, ?_⟩
  · have hk := hbefore k hk
    obtain ⟨t, hrun, hadvance, _⟩ := phaseAfterManySamples rate S k s hS hrate
    rw [← hI] at hadvance
    exact ⟨t, hrun, (phaseSign_eq_iff_of_advance hadvance (by omega)).mpr hk⟩
  · obtain ⟨t, hrun, hadvance, _⟩ := phaseAfterManySamples rate S L s hS hrate
    rw [← hI] at hadvance
    exact ⟨t, hrun, fun h => absurd ((phaseSign_eq_iff_of_advance hadvance (by omega)).mp h) (by omega)⟩

end Sys2Proof.Machine
end

section
/-! The phase increment against the exact quotient of frequency and rate (spec/41_oscillator.md rules R87, R92, R93). -/

namespace Sys2Proof.Machine

theorem oscInc_toNat (freq : FreqWord) (S : Nat) : (oscInc freq S).toNat = freq.toNat / S % 2 ^ 32 :=
  BitVec.toNat_ofNat _ _

theorem p2f_ge {p : Int} (hlo : -128 ≤ p) (hhi : p ≤ 127) : 5530232722 ≤ p2f p :=
  p2f_lowest ▸ p2f_le_of_le le_rfl hlo hhi

/-- R92 (a): the lowest pitch at the highest rate decides. -/
theorem two_le_p2f_div {p : Int} {S : Nat} (hlo : -128 ≤ p) (hhi : p ≤ 127) (hS : 1 ≤ S) (hS31 : S ≤ 2 ^ 31 - 1) :
    2 ≤ p2f p / S := by
  have hp := p2f_ge hlo hhi
  rw [Nat.le_div_iff_mul_le hS]
  omega

/-- R92 (b): in the units of the words, `rate <= frequency` is `2^32 S <= freq`. -/
theorem uqValue_rate_le_freqValue_iff (freq : FreqWord) (S : Nat) :
    uqValue 8 S ≤ freqValue freq ↔ 2 ^ 32 * S ≤ freq.toNat := by
  rw [freqValue, uqValue, uqValue, div_le_div_iff₀ (by positivity) (by positivity)]
  norm_cast
  omega

/-- Note 69 is 440 Hz exactly (R78 (b)). -/
theorem p2f_69 : p2f 69 = 440 * 2 ^ 40 := by decide

/-- Settles O30: 440 Hz at 440.0 Hz has quotient 2^32. -/
theorem incrementBounds : Obligations.IncrementBounds := by
  refine ⟨fun p S => two_le_p2f_div, ?_, fun freq S hS => ⟨oscInc_toNat freq S, ?_⟩, ?_⟩
  · simp [p2f_lowest]
  · rw [uqValue_rate_le_freqValue_iff, Nat.le_div_iff_mul_le hS]
  · rw [p2f_69]
    decide

/-- The ideal period in samples is `2^32` over the exact quotient (R93). -/
theorem idealPeriod_eq (S f : Nat) : uqValue 8 S / uqValue 40 f = 2 ^ 32 / ((f : ℚ) / S) := by
  simp only [uqValue, div_div_eq_mul_div]
  ring

section Period
variable {x y : ℚ}

/-- R93: rounding the quotient `x` down to `y` lengthens the period by less than the rule's bound. -/
theorem period_bounds (hx : 1 < x) (hyx : y ≤ x) (hxy : x < y + 1) :
    2 ^ 32 / x ≤ 2 ^ 32 / y ∧ 2 ^ 32 / y < 2 ^ 32 / x / (1 - 2 ^ 32 / x / 2 ^ 32) := by
  have hx0 : 0 < x := by linarith
  have hx1 : 0 < x - 1 := by linarith
  have hbound : 2 ^ 32 / x / (1 - 2 ^ 32 / x / 2 ^ 32) = 2 ^ 32 / (x - 1) := by
    field_simp
  rw [hbound]
  exact ⟨div_le_div_of_nonneg_left (by positivity) (by linarith) hyx,
    div_lt_div_of_pos_left (by positivity) hx1 (by linarith)⟩

/-- An ideal period of at most 65535 samples is a quotient of at least 65537, as `65535 * 65537 = 2^32 - 1`; there the
bounds of `period_bounds` lie less than one sample apart. -/
theorem period_error_lt_one (hx : 1 < x) (hxy : x < y + 1) (hN : 2 ^ 32 / x ≤ 65535) :
    2 ^ 32 / y - 2 ^ 32 / x < 1 := by
  have hx0 : 0 < x := by linarith
  have hy0 : 0 < y := by linarith
  have hx65537 : 65537 < x := by
    rw [div_le_iff₀ hx0] at hN
    linarith
  have hproduct : 2 ^ 32 < x * y := by
    calc (2 : ℚ) ^ 32 < 65537 * 65536 := by norm_num
      _ < x * y := mul_lt_mul'' hx65537 (by linarith) (by norm_num) (by norm_num)
  rw [div_sub_div _ _ hy0.ne' hx0.ne', div_lt_one (by positivity)]
  linarith

end Period

/-- The frequency over the rate, which R87 rounds down to the increment, in the form of the period lemmas. -/
theorem quotient_bounds (f : Nat) {S : Nat} (hS : 1 ≤ S) :
    ((f / S : Nat) : ℚ) ≤ (f : ℚ) / S ∧ (f : ℚ) / S < ((f / S : Nat) : ℚ) + 1 := by
  refine ⟨Nat.cast_div_le, ?_⟩
  rw [div_lt_iff₀' (by exact_mod_cast hS)]
  exact_mod_cast Nat.lt_mul_div_succ f hS

/-- The longest ideal period of the pitches from 0 up: pitch 0 at 535 kHz. -/
theorem idealPeriod_le {f S : Nat} (hf : p2f 0 ≤ f) (hS : S ≤ 535000 * 256) :
    uqValue 8 S / uqValue 40 f ≤ 65535 := by
  have h0 : p2f 0 = 8989385973760 := p2f_notePitch 4 10
  have hf0 : (8989385973760 : ℚ) ≤ f := by exact_mod_cast h0 ▸ hf
  have hS0 : (S : ℚ) ≤ 535000 * 256 := by exact_mod_cast hS
  unfold uqValue
  rw [div_le_iff₀ (by positivity)]
  linarith

/-- Settles O51. -/
theorem meanPeriodIsWithinOneSample : Obligations.MeanPeriodIsWithinOneSample := by
  refine ⟨fun p S I N hlo hhi hS hS31 hI _ hN => ?_, fun p S hlo hhi _ hS => ?_⟩
  · have hI2 : (2 : ℚ) ≤ I := by exact_mod_cast hI ▸ two_le_p2f_div hlo hhi hS (by omega)
    obtain ⟨hfloor, hlt⟩ := quotient_bounds (p2f p) hS
    rw [← hI] at hfloor hlt
    rw [idealPeriod_eq] at hN
    subst hN
    obtain ⟨hle, hbound⟩ := period_bounds (by linarith) hfloor hlt
    exact ⟨hle, hbound, period_error_lt_one (by linarith) hlt⟩
  · exact idealPeriod_le (p2f_le_of_le (by norm_num) hlo hhi) hS

end Sys2Proof.Machine
end

section
/-! Before the first `NOTE_ON` (spec/41_oscillator.md rule R91). -/

namespace Sys2Proof.Machine

/-- The block as it is until a note is played: no pitch, phase 0, envelope Idle. -/
structure Still (b : Block) : Prop where
  freq : b.osc.freq = 0
  phase : b.osc.phase = 0
  idle : b.env.state = .idle

theorem still_reset : Still Block.reset := ⟨rfl, rfl, rfl⟩

/-- At level 0 the sample is 0 (R126). -/
theorem sampleWord_zero_level (sgn : Sign) (volume : ParamWord) : sampleWord sgn 0 volume = 0 := by
  simp [sampleWord, mul]

/-- In Idle a sample is 0 (R104). -/
theorem blockSample_idle {b : Block} (S : Nat) (h : b.env.state = .idle) : blockSample S b = 0 := by
  rw [blockSample, envProcess_idle _ _ _ h]
  exact sampleWord_zero_level _ _

theorem Still.blockProcess {b : Block} (S : Nat) (hb : Still b) : Still (blockProcess S b) where
  freq := hb.freq
  phase := by
    rw [blockProcess_osc, oscAdvance_phase, hb.phase, hb.freq, oscInc_zero_freq]
    rfl
  idle := by simp [envProcess_idle _ _ _ hb.idle, envIdle, hb.idle]

/-- `NOTE_OFF` does nothing in Idle (R123), the parameter commands do not touch oscillator or envelope. -/
theorem Executes.keeps_still {b b' : Block} {i : Instr} {r : Response} (hb : Still b) (h : Executes b i b' r)
    (hi : ∀ pitch, i ≠ .noteOn pitch) : Still b' := by
  cases h with
  | noteOn pitch => exact absurd rfl (hi pitch)
  | noteOff =>
    obtain ⟨_, _, _, hsame⟩ := (Executes.noteOff (b := b)).noteOff_frame
    rwa [hsame (.inl hb.idle)]
  | process hS hrate => exact hb.blockProcess _
  | setParam => exact ⟨hb.freq, hb.phase, hb.idle⟩
  | badRate | setUnknown | getParam | getUnknown => exact hb

/-- No command gives sound in Idle: `PROCESS` gives a sample of 0, and no other response carries one. -/
theorem Executes.silent_of_idle {b b' : Block} {i : Instr} {r : Response} (hb : b.env.state = .idle)
    (h : Executes b i b' r) : r.left = 0 ∧ r.right = 0 := by
  cases h with
  | process hS hrate => exact ⟨blockSample_idle _ hb, blockSample_idle _ hb⟩
  | noteOn | noteOff | badRate | setParam | setUnknown | getParam | getUnknown => exact ⟨rfl, rfl⟩

theorem Answers.silent_of_idle {b b' : Block} {w : CmdWord} {r : Response} (hb : b.env.state = .idle)
    (h : Answers b w b' r) : r.left = 0 ∧ r.right = 0 := by
  cases h with
  | command _ hx => exact hx.silent_of_idle hb
  | illegal _ => exact ⟨rfl, rfl⟩

/-- The machine before the first note, with no `NOTE_ON` among the host's inputs to come. -/
structure BeforeFirstNote (s : State) : Prop where
  still : Still s.blk
  silent : ∀ r, s.rsp = some r → r.left = 0 ∧ r.right = 0
  noNote : ∀ h ∈ s.inputs, ∀ pitch, h.instr? ≠ some (.noteOn pitch)

theorem step_keeps_still {s t : State} (hs : BeforeFirstNote s) (h : step s = .next t) : Still t.blk := by
  obtain ⟨_, _, _, hblk⟩ | ⟨w, rest, i, r, hin, hdec, _, hx⟩ | hblk := step_next_cases h
  · exact hblk ▸ still_reset
  · refine hx.keeps_still hs.still ?_
    rintro pitch rfl
    exact hs.noNote (.command w) (by simp [hin]) pitch (command?_eq_some.mpr hdec)
  · exact hblk ▸ hs.still

theorem step_keeps_beforeFirstNote {s t : State} (hs : BeforeFirstNote s) (h : step s = .next t) :
    BeforeFirstNote t where
  still := step_keeps_still hs h
  silent r hr := by
    obtain ⟨w, hanswers⟩ := step_answers_of_rsp h hr
    exact hanswers.silent_of_idle hs.still.idle
  noNote := by
    obtain ⟨u, hu, htail⟩ := exists_step s
    cases hu.symm.trans h
    exact fun i hi => hs.noNote i (List.mem_of_mem_tail (htail ▸ hi))

/-- Settles O52: the machine starts before the first note and every step keeps it there. -/
theorem silentAndStillBeforeTheFirstNote : Obligations.SilentAndStillBeforeTheFirstNote := by
  intro n inputs hinputs
  obtain ⟨t, hrun, ⟨hfreq, hphase, hidle⟩, hsilent, _⟩ :=
    exists_runSteps_of_step step_keeps_beforeFirstNote n
      (s := { State.reset with inputs := inputs }) ⟨still_reset, nofun, hinputs⟩
  exact ⟨t, hrun, hfreq, fun S => hfreq ▸ oscInc_zero_freq S, hphase, by rw [hphase]; rfl, hidle, hsilent⟩

end Sys2Proof.Machine
end

section
/-! The ramp and the time step (spec/42_envelope.md rules R98, R103). -/

namespace Sys2Proof.Machine

section Ramp
variable {start target E E' T : Nat}

theorem ramp_of_le (h : start ≤ target) :
    ramp start target E T = start + (target - start) * E / stageEnd T := if_pos h

/-- Also where the two levels are equal: there nothing is covered. -/
theorem ramp_of_ge (h : target ≤ start) :
    ramp start target E T = start - (start - target) * E / stageEnd T := by
  obtain rfl | hlt := h.eq_or_lt
  · simp [ramp]
  · exact if_neg hlt.not_ge

theorem ramp_self : ramp start start E T = start := by simp [ramp]

/-- Before the stage's end some of the way is still to go. -/
theorem covered_lt {d E N : Nat} (hd : 0 < d) (h : E < N) : d * E / N < d :=
  Nat.div_lt_of_lt_mul (Nat.mul_comm N d ▸ Nat.mul_lt_mul_of_pos_left h hd)

theorem ramp_lt_target (hlt : start < target) (hE : E < stageEnd T) : ramp start target E T < target := by
  have hcovered := covered_lt (Nat.sub_pos_of_lt hlt) hE
  rw [ramp_of_le hlt.le]
  omega

theorem target_lt_ramp (hlt : target < start) (hE : E < stageEnd T) : target < ramp start target E T := by
  have hcovered := covered_lt (Nat.sub_pos_of_lt hlt) hE
  rw [ramp_of_ge hlt.le]
  omega

theorem start_le_ramp (hle : start ≤ target) : start ≤ ramp start target E T := by
  rw [ramp_of_le hle]
  exact Nat.le_add_right _ _

theorem ramp_le_start (hle : target ≤ start) : ramp start target E T ≤ start := by
  rw [ramp_of_ge hle]
  exact Nat.sub_le _ _

theorem ramp_mono (hle : start ≤ target) (hE : E ≤ E') : ramp start target E T ≤ ramp start target E' T := by
  rw [ramp_of_le hle, ramp_of_le hle]
  gcongr

theorem ramp_anti (hle : target ≤ start) (hE : E ≤ E') : ramp start target E' T ≤ ramp start target E T := by
  rw [ramp_of_ge hle, ramp_of_ge hle]
  gcongr

/-- Over the full range of levels the ramp is the elapsed time in units of the stage's time (R105). -/
theorem ramp_attack : ramp 0 65536 E T = E / T := by
  rw [ramp_of_le (Nat.zero_le _), Nat.zero_add, Nat.sub_zero, stageEnd, Nat.mul_comm T]
  exact Nat.mul_div_mul_left E T (by decide)

end Ramp

/-- Settles O31: the two formulas of R98 and what each says of the ends. -/
theorem rampStaysBetweenStartAndTarget : Obligations.RampStaysBetweenStartAndTarget := by
  intro start target E T _ _ _ hE
  exact ⟨ramp_of_le, fun h => ramp_of_ge h.le, fun h => ⟨start_le_ramp h.le, ramp_lt_target h hE⟩,
    fun h => ⟨target_lt_ramp h hE, ramp_le_start h.le⟩, fun h => h ▸ ramp_self, ramp_attack⟩

theorem sampleTime_ge {S : Nat} (hS : 1 ≤ S) (hS31 : S ≤ 2 ^ 31 - 1) : 512 ≤ sampleTime S := by
  rw [sampleTime, Nat.le_div_iff_mul_le hS]
  omega

/-- A rate word's period is at least one unit of the elapsed time: every `PROCESS` moves it. -/
theorem sampleTime_pos_of_rate {rate : DataField} {S : Nat} (hS : 1 ≤ S) (hrate : rate.toInt = S) :
    0 < sampleTime S := by
  have hlt := rate.toInt_lt
  have hge := sampleTime_ge hS (by omega)
  omega

/-- The period of the rate word `S`, in seconds, is `2^40 / S` units of 2^-32 s (R103). -/
theorem one_div_rate_eq (S : Nat) : 1 / uqValue 8 S = ((2 ^ 40 : Nat) : ℚ) / S / 2 ^ 32 := by
  rw [uqValue, one_div_div, div_right_comm]
  norm_num

/-- Settles O32: the exact period is the quotient that the time step floors. -/
theorem sampleTimeIsTheFlooredPeriod : Obligations.SampleTimeIsTheFlooredPeriod := by
  refine ⟨fun S hS hS31 => ⟨sampleTime_ge hS hS31, sampleTime_le S, ?_⟩, by decide, by decide⟩
  obtain ⟨hfloor, hlt⟩ := quotient_bounds (2 ^ 40) hS
  rw [one_div_rate_eq, uqValue, uqValue, Nat.cast_add_one]
  exact ⟨div_le_div_of_nonneg_right hfloor (by positivity), div_lt_div_of_pos_right hlt (by positivity)⟩

end Sys2Proof.Machine
end

section
/-! The timed stages (spec/42_envelope.md rules R105, R106, R108): what one sample does in any of the three. The arms of
`ENV_PROCESS` are this and the untimed arms of R104 and R107. -/

namespace Sys2Proof.Machine

theorem eq_effTime {T : Nat} {w : ParamWord} (h : (T : Int) = max w.toInt 0) : T = effTime w := by
  have := effTime_toInt w
  omega

theorem eq_effSustain {L : Nat} {w : ParamWord} (h : (L : Int) = min (max w.toInt 0) 65536) : L = effSustain w := by
  have := effSustain_toInt w
  omega

/-- `TimedArm x e start target T after`: under the registers `x` the envelope `e` is in a timed stage, which runs from
`start` to `target` in the time `T` and is followed by `after`. `TimedArm.envProcess_eq` ties it to `envProcess`. -/
inductive TimedArm (x : Params) (e : Envelope) : Nat → Nat → Nat → EnvState → Prop where
  | attack (h : e.state = .attack) : TimedArm x e 0 65536 (attackEff x) .decay
  | decay (h : e.state = .decay) : TimedArm x e 65536 (sustainEff x) (decayEff x) .sustain
  | release (h : e.state = .release) : TimedArm x e e.relStart.toNat 0 (releaseEff x) .idle

namespace TimedArm
variable {x : Params} {e : Envelope} {start target T S : Nat} {after : EnvState}

theorem envProcess_eq (arm : TimedArm x e start target T after) :
    envProcess x S e = timedStage start target T after S e := by
  cases arm with
  | attack h => exact envProcess_attack x S e h
  | decay h => exact envProcess_decay x S e h
  | release h => exact envProcess_release x S e h

theorem fits (arm : TimedArm x e start target T after) :
    start < 2 ^ 17 ∧ target < 2 ^ 17 ∧ stageEnd T < 2 ^ 48 := by
  have hsustain : sustainEff x ≤ 65536 := effSustain_le _
  cases arm with
  | attack => exact ⟨by omega, by omega, (stageEnd_effTime_lt _).trans (by decide)⟩
  | decay => exact ⟨by omega, by omega, (stageEnd_effTime_lt _).trans (by decide)⟩
  | release => exact ⟨e.relStart.isLt, by omega, (stageEnd_effTime_lt _).trans (by decide)⟩

/-- A stage is another one than the stage after it. -/
theorem after_ne (arm : TimedArm x e start target T after) : after ≠ e.state := by
  cases arm with
  | attack h | decay h | release h => simp [h]

/-- The stage is a matter of the state and the release start level only. -/
theorem congr {e' : Envelope} (arm : TimedArm x e start target T after) (hstate : e'.state = e.state)
    (hrel : e'.relStart = e.relStart) : TimedArm x e' start target T after := by
  cases arm with
  | attack h => exact .attack (hstate.trans h)
  | decay h => exact .decay (hstate.trans h)
  | release h => exact hrel ▸ .release (hstate.trans h)

/-- The sample on which the time is reached. -/
theorem at_end (arm : TimedArm x e start target T after) (hE : stageEnd T ≤ e.elapsed.toNat + sampleTime S) :
    (envProcess x S e).level.toNat = target ∧ (envProcess x S e).state = after ∧ (envProcess x S e).elapsed = 0 := by
  obtain ⟨hstart, htarget, hT⟩ := arm.fits
  rw [arm.envProcess_eq]
  obtain ⟨_, hlevel, hstate, helapsed, _⟩ | ⟨hlt, _⟩ := timedStage_cases start target T after S e hstart htarget hT
  · exact ⟨hlevel, hstate, helapsed⟩
  · omega

/-- A sample before the time is reached. -/
theorem before_end (arm : TimedArm x e start target T after) (hE : e.elapsed.toNat + sampleTime S < stageEnd T) :
    (envProcess x S e).level.toNat = ramp start target (e.elapsed.toNat + sampleTime S) T ∧
      (envProcess x S e).state = e.state ∧
      (envProcess x S e).elapsed.toNat = e.elapsed.toNat + sampleTime S := by
  obtain ⟨hstart, htarget, hT⟩ := arm.fits
  rw [arm.envProcess_eq]
  obtain ⟨hle, _⟩ | ⟨_, hlevel, hstate, helapsed, _⟩ := timedStage_cases start target T after S e hstart htarget hT
  · omega
  · exact ⟨hlevel, hstate, helapsed⟩

/-- The state changes on the sample on which the time is reached, and on no other. -/
theorem state_eq_iff (arm : TimedArm x e start target T after) :
    (envProcess x S e).state = e.state ↔ e.elapsed.toNat + sampleTime S < stageEnd T := by
  obtain hlt | hle := lt_or_ge (e.elapsed.toNat + sampleTime S) (stageEnd T)
  · simp [hlt, (arm.before_end hlt).2.1]
  · simp [hle.not_gt, (arm.at_end hle).2.1, arm.after_ne]

theorem end_of_state_ne (arm : TimedArm x e start target T after) (h : (envProcess x S e).state ≠ e.state) :
    stageEnd T ≤ e.elapsed.toNat + sampleTime S :=
  not_lt.mp (arm.state_eq_iff.not.mp h)

/-- A timed stage as a completed `PROCESS`. -/
theorem exists_exec_process {s : State} {rate : DataField} (arm : TimedArm s.blk.x s.blk.env start target T after)
    (hS : 1 ≤ S) (hrate : rate.toInt = S) :
    ∃ t, exec (.process rate) s = .next t ∧ t.blk.env.relStart = s.blk.env.relStart ∧
      (stageEnd T ≤ s.blk.env.elapsed.toNat + sampleTime S →
        t.blk.env.level.toNat = target ∧ t.blk.env.state = after ∧ t.blk.env.elapsed.toNat = 0) ∧
      (s.blk.env.elapsed.toNat + sampleTime S < stageEnd T →
        t.blk.env.level.toNat = ramp start target (s.blk.env.elapsed.toNat + sampleTime S) T ∧
        t.blk.env.state = s.blk.env.state ∧
        t.blk.env.elapsed.toNat = s.blk.env.elapsed.toNat + sampleTime S) := by
  refine ⟨_, execProcess_pos s hS hrate, envProcess_relStart _ _ _, fun hend => ?_, arm.before_end⟩
  obtain ⟨hlevel, hafter, helapsed⟩ := arm.at_end hend
  exact ⟨hlevel, hafter, congrArg BitVec.toNat helapsed⟩

end TimedArm

/-- Settles O34: the stage with the levels 0 and 65536. -/
theorem attackArm : Obligations.AttackArm := by
  intro rate S E A s hS hrate hstate hE hA
  obtain rfl : A = attackEff s.blk.x := eq_effTime hA
  subst hE
  obtain ⟨t, hexec, hrel, hend, hrun⟩ := (TimedArm.attack (x := s.blk.x) hstate).exists_exec_process hS hrate
  refine ⟨t, hexec, hrel, hend, fun hlt => ?_⟩
  obtain ⟨hlevel, hstays, helapsed⟩ := hrun hlt
  have hbelow : t.blk.env.level.toNat < 65536 := hlevel.trans_lt (ramp_lt_target (by decide) hlt)
  exact ⟨hlevel, hlevel.trans ramp_attack, Nat.le_pred_of_lt hbelow, hstays.trans hstate, helapsed⟩

/-- Settles O35: the stage with the levels 65536 and `S_eff`. -/
theorem decayArm : Obligations.DecayArm := by
  intro rate S E D L s hS hrate hstate hE hD hL
  obtain rfl : D = decayEff s.blk.x := eq_effTime hD
  obtain rfl : L = sustainEff s.blk.x := eq_effSustain hL
  subst hE
  obtain ⟨t, hexec, hrel, hend, hrun⟩ := (TimedArm.decay (x := s.blk.x) hstate).exists_exec_process hS hrate
  refine ⟨t, hexec, hrel, hend, fun hlt => ?_⟩
  obtain ⟨hlevel, hstays, helapsed⟩ := hrun hlt
  exact ⟨hlevel, hlevel.trans_le (ramp_le_start (effSustain_le _)),
    fun hbelow => (target_lt_ramp hbelow hlt).trans_eq hlevel.symm, fun hfull => hlevel.trans (hfull ▸ ramp_self),
    hstays.trans hstate, helapsed⟩

/-- Settles O37: the stage with the levels `rel_start` and 0. -/
theorem releaseArm : Obligations.ReleaseArm := by
  intro rate S E R s hS hrate hstate hE hR
  obtain rfl : R = releaseEff s.blk.x := eq_effTime hR
  subst hE
  obtain ⟨t, hexec, hrel, hend, hrun⟩ := (TimedArm.release (x := s.blk.x) hstate).exists_exec_process hS hrate
  refine ⟨t, hexec, hrel, hend, fun hlt => ?_⟩
  obtain ⟨hlevel, hstays, helapsed⟩ := hrun hlt
  exact ⟨hlevel, hlevel.trans_le (ramp_le_start (Nat.zero_le _)),
    fun hpos => (target_lt_ramp hpos hlt).trans_eq hlevel.symm, hstays.trans hstate, helapsed⟩

end Sys2Proof.Machine
end

section
/-! The untimed arms of `ENV_PROCESS` (spec/42_envelope.md rules R104, R107), and what all arms see of the registers
(rule R99). -/

namespace Sys2Proof.Machine

/-- Settles O33: the envelope takes the arm of R104, and at its level 0 the sample is 0. -/
theorem idleIsSilentAndThePhaseRunsOn : Obligations.IdleIsSilentAndThePhaseRunsOn := by
  intro rate S s hS hrate hidle
  have henv : (blockProcess S s.blk).env = envIdle s.blk.env := envProcess_idle _ _ _ hidle
  refine ⟨_, execProcess_pos s hS hrate, ?_⟩
  rw [respond_rsp, respond_blk, henv, blockSample_idle S hidle]
  exact ⟨rfl, rfl, hidle, rfl, rfl, oscAdvance_phase_toNat S s.blk.osc, rfl, rfl⟩

theorem envSustain_level_toInt (x : Params) (e : Envelope) :
    ((envSustain x e).level.toNat : Int) = min (max x.sustain.toInt 0) 65536 := by
  rw [envSustain_level_toNat, sustainEff, effSustain_toInt]

theorem exists_exec_process_sustain {rate : DataField} {S : Nat} {s : State} (hS : 1 ≤ S) (hrate : rate.toInt = S)
    (hstate : s.blk.env.state = .sustain) :
    ∃ t, exec (.process rate) s = .next t ∧
      (t.blk.env.level.toNat : Int) = min (max s.blk.x.sustain.toInt 0) 65536 ∧
      t.blk.env.state = .sustain ∧ t.blk.env.elapsed = s.blk.env.elapsed ∧
      t.blk.env.relStart = s.blk.env.relStart := by
  have henv : (blockProcess S s.blk).env = envSustain s.blk.x s.blk.env := envProcess_sustain _ _ _ hstate
  refine ⟨_, execProcess_pos s hS hrate, ?_⟩
  rw [respond_blk, henv]
  exact ⟨envSustain_level_toInt _ _, hstate, rfl, rfl⟩

/-- Settles O36: the second part is the first after the register is written. -/
theorem sustainArm : Obligations.SustainArm := by
  refine ⟨fun rate S s => exists_exec_process_sustain, fun rate S value s hS hrate hstate => ?_⟩
  have hset := execSetParam_known (id := 3) value s (paramOf_id .sustain)
  obtain ⟨u, hexec, hlevel, hstate', _⟩ := exists_exec_process_sustain hS hrate
    (s := respondOk { s.blk with x := s.blk.x.write .sustain value } s) hstate
  exact ⟨_, u, hset, hexec, hlevel, hstate'⟩

/-- `ENV_PROCESS` reads the registers through their effective values (R99). -/
theorem envProcess_congr {x y : Params} (S : Nat) (e : Envelope) (hattack : attackEff x = attackEff y)
    (hdecay : decayEff x = decayEff y) (hsustain : sustainEff x = sustainEff y)
    (hrelease : releaseEff x = releaseEff y) : envProcess x S e = envProcess y S e := by
  unfold envProcess
  cases e.state with
  | idle => rfl
  | attack => simp only [envAttack, hattack]
  | decay => simp only [envDecay, hdecay, hsustain]
  | sustain => simp only [envSustain, hsustain]
  | release => simp only [envRelease, hrelease]

/-- Settles O43: equal integers of R99 are equal effective values. -/
theorem envelopeSeesOnlyEffectiveValues : Obligations.EnvelopeSeesOnlyEffectiveValues := by
  intro rate s t henv hpos hattack hdecay hsustain hrelease
  obtain ⟨S, hrate⟩ := Int.eq_ofNat_of_zero_le (a := rate.toInt) (by omega)
  have hS : 1 ≤ S := by omega
  refine ⟨_, _, execProcess_pos s hS hrate, execProcess_pos t hS hrate, ?_⟩
  rw [respond_blk, respond_blk, blockProcess_env, blockProcess_env, henv]
  exact envProcess_congr S _ (eq_effTime ((effTime_toInt _).trans hattack))
    (eq_effTime ((effTime_toInt _).trans hdecay)) (eq_effSustain ((effSustain_toInt _).trans hsustain))
    (eq_effTime ((effTime_toInt _).trans hrelease))

end Sys2Proof.Machine
end

section
/-! What changes the envelope's state (spec/42_envelope.md rules R109, R110). -/

namespace Sys2Proof.Machine

/-- `ENV_PROCESS` changes the state only as the end of a timed stage. -/
theorem exists_timedArm_of_state_ne {x : Params} {S : Nat} {e : Envelope} (h : (envProcess x S e).state ≠ e.state) :
    ∃ start target T after, TimedArm x e start target T after ∧ stageEnd T ≤ e.elapsed.toNat + sampleTime S := by
  cases hstate : e.state with
  | idle => exact absurd (by rw [envProcess_idle x S e hstate, envIdle]) h
  | sustain => exact absurd (by rw [envProcess_sustain x S e hstate, envSustain]) h
  | attack => exact ⟨_, _, _, _, .attack hstate, (TimedArm.attack hstate).end_of_state_ne h⟩
  | decay => exact ⟨_, _, _, _, .decay hstate, (TimedArm.decay hstate).end_of_state_ne h⟩
  | release => exact ⟨_, _, _, _, .release hstate, (TimedArm.release hstate).end_of_state_ne h⟩

/-- The end of a timed stage, stage by stage. -/
theorem envProcess_of_state_ne {x : Params} {S : Nat} {e : Envelope} (h : (envProcess x S e).state ≠ e.state) :
    (envProcess x S e).elapsed = 0 ∧
      ((e.state = .attack ∧ (envProcess x S e).state = .decay ∧ (envProcess x S e).level.toNat = 65536) ∨
       (e.state = .decay ∧ (envProcess x S e).state = .sustain ∧ (envProcess x S e).level.toNat = sustainEff x) ∨
       (e.state = .release ∧ (envProcess x S e).state = .idle ∧ (envProcess x S e).level = 0)) := by
  obtain ⟨start, target, T, after, arm, hend⟩ := exists_timedArm_of_state_ne h
  obtain ⟨hlevel, hafter, helapsed⟩ := arm.at_end hend
  refine ⟨helapsed, ?_⟩
  cases arm with
  | attack hstate => exact .inl ⟨hstate, hafter, hlevel⟩
  | decay hstate => exact .inr (.inl ⟨hstate, hafter, hlevel⟩)
  | release hstate => exact .inr (.inr ⟨hstate, hafter, BitVec.eq_of_toNat_eq hlevel⟩)

/-- Settles O38: a step resets, runs a command, or leaves the block as it is; of the commands only these three write the
envelope. -/
theorem onlyTheseEventsChangeTheEnvelopeState : Obligations.OnlyTheseEventsChangeTheEnvelopeState := by
  intro s t hstep hne
  obtain ⟨f, rest, hin, hblk⟩ | ⟨w, rest, i, r, hin, hdec, _, hx⟩ | hblk := step_next_cases hstep
  · rw [hblk]
    exact ⟨rfl, .inl ⟨f, rest, hin, rfl⟩⟩
  · generalize t.blk = b' at hx hne ⊢
    cases hx with
    | noteOn pitch => exact ⟨rfl, .inr (.inl ⟨w, rest, pitch, hin, hdec, rfl, rfl⟩)⟩
    | noteOff =>
      rw [blockNoteOff_env] at hne ⊢
      obtain ⟨hsounding, hoff⟩ | ⟨_, hoff⟩ := envNoteOff_cases s.blk.env
      · rw [hoff]
        exact ⟨rfl, .inr (.inr (.inl ⟨w, rest, hin, hdec, hsounding, rfl, rfl⟩))⟩
      · exact absurd (by rw [hoff]) hne
    | process hS hrate =>
      obtain ⟨helapsed, hend⟩ := envProcess_of_state_ne hne
      exact ⟨helapsed, .inr (.inr (.inr ⟨w, rest, _, hin, hdec, by omega, hend⟩))⟩
    | badRate | setParam | setUnknown | getParam | getUnknown => exact absurd rfl hne
  · exact absurd (by rw [hblk]) hne

end Sys2Proof.Machine
end

section
/-! How long a timed stage lasts (spec/42_envelope.md rules R111, R112), and its levels in order (rule R115). -/

namespace Sys2Proof.Machine

/-- The number of steps of length `dt` that first reach `N`, at least one (R112): before it `N` is not reached. -/
theorem lt_stageCalls_iff {k N dt : Nat} (hk : 1 ≤ k) (hdt : 0 < dt) :
    k < max 1 ((N + dt - 1) / dt) ↔ k * dt < N := by
  have hceil : k < (N + dt - 1) / dt ↔ (k + 1) * dt ≤ N + dt - 1 := Nat.le_div_iff_mul_le hdt
  rw [add_one_mul] at hceil
  omega

theorem blockProcess_iterate_x (S n : Nat) (b : Block) : ((blockProcess S)^[n] b).x = b.x := by
  induction n with
  | zero => rfl
  | succ n ih => rw [Function.iterate_succ_apply', blockProcess_x, ih]

/-- The envelope runs under the registers, which no sample writes, and independently of the oscillator (R127). -/
theorem blockProcess_iterate_env (S n : Nat) (b : Block) :
    ((blockProcess S)^[n] b).env = (envProcess b.x S)^[n] b.env := by
  induction n with
  | zero => rfl
  | succ n ih =>
    rw [Function.iterate_succ_apply', Function.iterate_succ_apply', blockProcess_env, blockProcess_iterate_x, ih]

namespace TimedArm
variable {x : Params} {e : Envelope} {start target T S n : Nat} {after : EnvState}

theorem next (arm : TimedArm x e start target T after) (hrun : (envProcess x S e).state = e.state) :
    TimedArm x (envProcess x S e) start target T after :=
  arm.congr hrun (envProcess_relStart x S e)

/-- A stage of at most one time step ends on its first sample. -/
theorem first_sample (arm : TimedArm x e start target T after) (h0 : e.elapsed = 0)
    (hT : stageEnd T ≤ sampleTime S) :
    (envProcess x S e).level.toNat = target ∧ (envProcess x S e).state = after ∧ (envProcess x S e).elapsed = 0 :=
  arm.at_end (by rw [h0]; exact hT.trans (Nat.le_add_left _ _))

/-- Before the last of its samples a stage is at the elapsed time `k * dt`, and from the first one on at the ramp's level
there. -/
theorem iterate (arm : TimedArm x e start target T after) (h0 : e.elapsed = 0) (hdt : 0 < sampleTime S) {k : Nat}
    (hk : k < max 1 ((stageEnd T + sampleTime S - 1) / sampleTime S)) :
    TimedArm x ((envProcess x S)^[k] e) start target T after ∧ ((envProcess x S)^[k] e).state = e.state ∧
      ((envProcess x S)^[k] e).elapsed.toNat = k * sampleTime S ∧
      (1 ≤ k → ((envProcess x S)^[k] e).level.toNat = ramp start target (k * sampleTime S) T) := by
  induction k with
  | zero => exact ⟨arm, rfl, by simp [h0], nofun⟩
  | succ k ih =>
    obtain ⟨harm, hstate, helapsed, _⟩ := ih (by omega)
    have hrun := (lt_stageCalls_iff (Nat.succ_pos k) hdt).mp hk
    rw [Nat.succ_mul, ← helapsed] at hrun ⊢
    obtain ⟨hlevel, hstays, hadvance⟩ := harm.before_end hrun
    rw [Function.iterate_succ_apply']
    exact ⟨harm.next hstays, hstays.trans hstate, hadvance, fun _ => hlevel⟩

/-- The last of a stage's samples. -/
theorem last_sample (arm : TimedArm x e start target T after) (h0 : e.elapsed = 0) (hdt : 0 < sampleTime S)
    (hn : n = max 1 ((stageEnd T + sampleTime S - 1) / sampleTime S)) :
    ((envProcess x S)^[n] e).level.toNat = target ∧ ((envProcess x S)^[n] e).state = after ∧
      ((envProcess x S)^[n] e).elapsed = 0 := by
  obtain ⟨k, rfl⟩ : ∃ k, n = k + 1 := ⟨n - 1, by omega⟩
  obtain ⟨harm, _, helapsed, _⟩ := arm.iterate h0 hdt (k := k) (by omega)
  have hend : stageEnd T ≤ (k + 1) * sampleTime S :=
    not_lt.mp fun hlt => hn.not_lt ((lt_stageCalls_iff (Nat.succ_pos k) hdt).mpr hlt)
  rw [Nat.succ_mul, ← helapsed] at hend
  rw [Function.iterate_succ_apply']
  exact harm.at_end hend

/-- Of two successive samples, the first of which does not end the stage, the second is not farther from the target, and
it is the target where it ends the stage. -/
theorem successive (arm : TimedArm x e start target T after) (hrun : (envProcess x S e).state = e.state) :
    (start ≤ target →
      (envProcess x S e).level.toNat ≤ (envProcess x S (envProcess x S e)).level.toNat) ∧
    (target ≤ start →
      (envProcess x S (envProcess x S e)).level.toNat ≤ (envProcess x S e).level.toNat) ∧
    ((envProcess x S (envProcess x S e)).state ≠ e.state →
      (envProcess x S (envProcess x S e)).level.toNat = target) := by
  have hlt := arm.state_eq_iff.mp hrun
  have hbetween := ramp_between (start := start) (target := target) hlt
  obtain ⟨hlevel, _, helapsed⟩ := arm.before_end hlt
  obtain hlt' | hend := lt_or_ge ((envProcess x S e).elapsed.toNat + sampleTime S) (stageEnd T)
  · obtain ⟨hlevel', hstays, _⟩ := (arm.next hrun).before_end hlt'
    rw [hlevel, hlevel', helapsed]
    exact ⟨fun hle => ramp_mono hle (Nat.le_add_right _ _), fun hle => ramp_anti hle (Nat.le_add_right _ _),
      fun hne => absurd (hstays.trans hrun) hne⟩
  · obtain ⟨hlevel', _, _⟩ := (arm.next hrun).at_end hend
    rw [hlevel, hlevel']
    exact ⟨fun hle => by omega, fun hle => by omega, fun _ => rfl⟩

end TimedArm

theorem envNoteOff_eq_beginRelease {e : Envelope} (h : e.state = .attack ∨ e.state = .decay ∨ e.state = .sustain) :
    envNoteOff e = beginRelease e := by
  obtain ⟨_, hoff⟩ | ⟨hquiet, _⟩ := envNoteOff_cases e
  · exact hoff
  · obtain hstate | hstate | hstate := h <;> simp [hstate] at hquiet

/-- Settles O39: `NOTE_ON`, a stage's end and `NOTE_OFF` all leave the elapsed time at 0. -/
theorem zeroTimesEndTheirStageAtOnce : Obligations.ZeroTimesEndTheirStageAtOnce := by
  refine ⟨fun pitch rate S s hS hrate hattack => ?_, fun rate S s hS hrate hsounding hrelease => ?_,
    fun S => by simp, fun T => by omega⟩
  · have attack : TimedArm s.blk.x (envNoteOn s.blk.env) 0 65536 (attackEff s.blk.x) .decay := .attack rfl
    obtain ⟨hlevel, hstate, helapsed⟩ := attack.first_sample (S := S) rfl hattack
    refine ⟨_, _, rfl, execProcess_pos _ hS hrate, hlevel, hstate, fun hdecay => ?_⟩
    obtain ⟨hlevel', hstate', _⟩ := (TimedArm.decay (x := s.blk.x) hstate).first_sample (S := S) helapsed hdecay
    exact ⟨_, execProcess_pos _ hS hrate, hlevel', hstate'⟩
  · have hoff : (blockNoteOff s.blk).env = beginRelease s.blk.env := envNoteOff_eq_beginRelease hsounding
    have release : TimedArm s.blk.x (blockNoteOff s.blk).env _ 0 (releaseEff s.blk.x) .idle :=
      .release (by rw [hoff, beginRelease_state])
    obtain ⟨hlevel, hstate, _⟩ := release.first_sample (S := S) (by rw [hoff, beginRelease_elapsed]) hrelease
    exact ⟨_, _, rfl, execProcess_pos _ hS hrate, hlevel, hstate⟩

/-- Settles O40: each row is a timed stage. -/
theorem stageLastsItsNumberOfCalls : Obligations.StageLastsItsNumberOfCalls := by
  refine ⟨fun rate S T n start target dt stage after s hS hrate hdt hrow hstate h0 hn => ?_, by decide, by decide,
    by decide⟩
  obtain rfl : dt = sampleTime S := hdt
  have hpos := sampleTime_pos_of_rate hS hrate
  have arm : TimedArm s.blk.x s.blk.env start target T after := by
    obtain ⟨hstage, hT, rfl, rfl, rfl⟩ | ⟨hstage, hT, rfl, rfl, rfl⟩ | ⟨hstage, hT, rfl, rfl, rfl⟩ := hrow
    · exact eq_effTime hT ▸ .attack (hstate.trans hstage)
    · exact eq_effTime hT ▸ .decay (hstate.trans hstage)
    · exact eq_effTime hT ▸ .release (hstate.trans hstage)
  refine ⟨fun k hk hkn => ?_, ?_⟩
  · obtain ⟨t, hrun, hblk⟩ := exists_runSteps_process hS hrate k s
    obtain ⟨_, hstays, helapsed, hlevel⟩ := arm.iterate h0 hpos (hn ▸ hkn)
    rw [← blockProcess_iterate_env, ← hblk] at hstays helapsed hlevel
    exact ⟨t, hrun, hstays.trans hstate, hlevel hk, helapsed⟩
  · obtain ⟨t, hrun, hblk⟩ := exists_runSteps_process hS hrate n s
    obtain ⟨hlevel, hafter, helapsed⟩ := arm.last_sample h0 hpos hn
    rw [← blockProcess_iterate_env, ← hblk] at hlevel hafter helapsed
    exact ⟨t, hrun, hafter, hlevel, helapsed⟩

/-- Settles O41: the first sample stays in the stage, so both are samples of that stage's ramp. -/
theorem stageLevelsAreMonotone : Obligations.StageLevelsAreMonotone := by
  intro rate S s t u hS hrate ht hu
  cases (execProcess_pos s hS hrate).symm.trans ht
  cases (execProcess_pos _ hS hrate).symm.trans hu
  refine ⟨fun hstate hrun => ?_, fun hstate hrun => ?_, fun hstate hrun => ?_⟩
  · obtain ⟨hup, _, hend⟩ := (TimedArm.attack (x := s.blk.x) hstate).successive (hrun.trans hstate.symm)
    exact ⟨hup (by decide), hstate ▸ hend⟩
  · obtain ⟨_, hdown, hend⟩ := (TimedArm.decay (x := s.blk.x) hstate).successive (hrun.trans hstate.symm)
    exact ⟨hdown (effSustain_le _), hstate ▸ hend⟩
  · obtain ⟨_, hdown, hend⟩ := (TimedArm.release (x := s.blk.x) hstate).successive (hrun.trans hstate.symm)
    exact ⟨hdown (Nat.zero_le _), hstate ▸ hend⟩

/-- A release from level 0 stays there (R117). -/
theorem envProcess_level_of_release_from_zero {e : Envelope} (x : Params) (S : Nat) (hstate : e.state = .release)
    (hrel : e.relStart = 0) : (envProcess x S e).level = 0 := by
  have release : TimedArm x e e.relStart.toNat 0 (releaseEff x) .idle := .release hstate
  apply BitVec.eq_of_toNat_eq
  obtain hlt | hend := lt_or_ge (e.elapsed.toNat + sampleTime S) (stageEnd (releaseEff x))
  · obtain ⟨hlevel, _, _⟩ := release.before_end hlt
    rw [hlevel, hrel]
    exact ramp_self
  · exact (release.at_end hend).1

theorem blockSample_of_level_zero {S : Nat} {b : Block} (h : (envProcess b.x S b.env).level = 0) :
    blockSample S b = 0 := by
  rw [blockSample, h]
  exact sampleWord_zero_level _ _

/-- Settles O42: `NOTE_OFF` takes over the level 0 that `NOTE_ON` wrote. -/
theorem noteOffRightAfterNoteOnReleasesFromZero : Obligations.NoteOffRightAfterNoteOnReleasesFromZero := by
  refine ⟨fun pitch s => ⟨_, _, rfl, rfl, rfl, rfl, rfl, rfl⟩, fun rate S s hS hrate hstate hrel => ?_⟩
  have release : TimedArm s.blk.x s.blk.env s.blk.env.relStart.toNat 0 (releaseEff s.blk.x) .idle := .release hstate
  have hlevel := envProcess_level_of_release_from_zero s.blk.x S hstate hrel
  refine ⟨_, execProcess_pos s hS hrate, hlevel, ?_, (envProcess_relStart _ _ _).trans hrel,
    fun hend => (release.at_end hend).2.1, fun hlt => (release.before_end hlt).2.1.trans hstate⟩
  rw [respond_rsp, blockSample_of_level_zero hlevel]

end Sys2Proof.Machine
end

section
/-! The multiplier (spec/43_voice_and_multiplier.md rules R121, R126), its word read as an integer and as a value. -/

namespace Sys2Proof.Machine

/-- The scales of level and volume multiply to the scale of the sample, so the exact product of the words is the product
of the values (R121). -/
theorem sampleValue_sampleWord (sgn : Sign) (level : LevelWord) (volume : ParamWord) :
    sampleValue (sampleWord sgn level volume) = (sgn.toInt : ℚ) * levelValue level * paramValue volume := by
  rw [sampleValue, sampleWord_toInt, levelValue, paramValue, uqValue, sqValue, sqValue]
  push_cast
  ring

/-- Settles O46: the word holds the product whole, whatever the level; the bound is what needs a level of at most
1.0. -/
theorem sampleIsTheExactProduct : Obligations.SampleIsTheExactProduct :=
  fun sgn level volume hlevel =>
    ⟨sampleWord_toInt sgn level volume, sampleWord_natAbs_le sgn volume hlevel, sampleValue_sampleWord sgn level volume⟩

/-- At volume 0 the sample is 0 (R126). -/
theorem sampleWord_zero_volume (sgn : Sign) (level : LevelWord) : sampleWord sgn level 0 = 0 := by
  simp [sampleWord, mul, paramInt]

/-- A negative volume inverts the polarity (R126). -/
theorem sampleWord_inverted {level : LevelWord} {volume : ParamWord} (hlevel : 0 < level.toNat)
    (hvolume : volume.toInt < 0) :
    (sampleWord .plus level volume).toInt < 0 ∧ 0 < (sampleWord .minus level volume).toInt := by
  have hproduct : (level.toNat : Int) * volume.toInt < 0 := mul_neg_of_pos_of_neg (by omega) hvolume
  rw [sampleWord_toInt, sampleWord_toInt, Sign.toInt, Sign.toInt, one_mul, neg_one_mul, neg_mul]
  exact ⟨hproduct, neg_pos.mpr hproduct⟩

/-- The level word 65536 is 1.0 (R29). -/
theorem levelValue_full : levelValue 65536 = 1 := by
  have hword : (65536 : LevelWord).toNat = 2 ^ 16 := by decide
  rw [levelValue, uqValue, hword]
  norm_num

/-- At level 1.0 the sample is the volume with the oscillator's sign. -/
theorem abs_sampleValue_full_level (sgn : Sign) (volume : ParamWord) :
    |sampleValue (sampleWord sgn 65536 volume)| = |paramValue volume| := by
  rw [sampleValue_sampleWord, levelValue_full, mul_one]
  cases sgn <;> simp [Sign.toInt]

theorem one_lt_paramValue {volume : ParamWord} (h : 65536 < volume.toInt) : 1 < paramValue volume := by
  rw [paramValue, sqValue, one_lt_div (by positivity)]
  exact_mod_cast h

/-- Settles O47: the general rules are the lemmas above; the extreme words are computed. -/
theorem multiplierCornerCases : Obligations.MultiplierCornerCases := by
  refine ⟨sampleWord_zero_level, sampleWord_zero_volume,
    fun level volume hpos _ hvolume => sampleWord_inverted hpos hvolume, fun sgn volume hvolume => ?_, by decide⟩
  rw [abs_sampleValue_full_level]
  exact (one_lt_paramValue hvolume).trans_le (le_abs_self _)

end Sys2Proof.Machine
end

section
/-! What `PROCESS` reads (spec/43_voice_and_multiplier.md rules R124, R127). -/

namespace Sys2Proof.Machine

/-- The sample is read off the block that the advance leaves (R124). -/
theorem blockSample_eq (S : Nat) (b : Block) :
    blockSample S b = sampleWord (phaseSign (blockProcess S b).osc.phase) (blockProcess S b).env.level
      (blockProcess S b).x.masterVolume := rfl

/-- Settles O44: the oscillator is advanced from itself, the envelope reads the registers `x[1]` to `x[4]`, and the
sample is read off the advanced block. -/
theorem leavesAreIndependent : Obligations.LeavesAreIndependent := by
  intro rate s t hpos
  obtain ⟨S, hrate⟩ := Int.eq_ofNat_of_zero_le (a := rate.toInt) (by omega)
  have hS : 1 ≤ S := by omega
  refine ⟨_, _, _, _, execProcess_pos s hS hrate, execProcess_pos t hS hrate, rfl, rfl, fun hosc => ?_,
    fun henv hattack hdecay hsustain hrelease => ?_, fun hphase hlevel hvolume => ?_⟩
  · rw [respond_blk, respond_blk, blockProcess_osc, blockProcess_osc, hosc]
  · rw [respond_blk, respond_blk, blockProcess_env, blockProcess_env, henv]
    exact envProcess_congr S _ (congrArg effTime hattack) (congrArg effTime hdecay) (congrArg effSustain hsustain)
      (congrArg effTime hrelease)
  · rw [respond_blk, respond_blk] at hphase hlevel
    have hsample : blockSample S s.blk = blockSample S t.blk := by
      rw [blockSample_eq, blockSample_eq, hphase, hlevel, blockProcess_x, blockProcess_x, hvolume]
    rw [hsample]

end Sys2Proof.Machine
end

section
/-! The commands of the voice (spec/43_voice_and_multiplier.md rules R122, R123, R124): what each writes and answers,
and its word. -/

namespace Sys2Proof.Machine

/-- Settles O17: `exec` answers `blockNoteOn` by definition, and the frequency register holds `P2F` whole. -/
theorem noteOnSetsPitchAndRestartsAttack : Obligations.NoteOnSetsPitchAndRestartsAttack := by
  refine ⟨fun pitch s => ?_, fun pitch => ?_, by decide, by decide, by decide⟩
  · exact ⟨_, rfl, oscSetPitch_freq_toNat pitch s.blk.osc, rfl, rfl, rfl, rfl, rfl, rfl, rfl, rfl⟩
  · obtain ⟨hformat, _⟩ := decode_eq_noteOn_iff.mp (decode_encode (.noteOn pitch))
    exact ⟨hformat, opField_packWord _ _ _⟩

/-- Settles O18: the envelope begins a release or is kept, and nothing else of the block is written. -/
theorem noteOffBeginsReleaseAtTheHeldLevel : Obligations.NoteOffBeginsReleaseAtTheHeldLevel := by
  refine ⟨by decide, by decide, by decide, fun s => ⟨_, rfl, fun hheld => ?_, fun hdone => ?_, rfl, rfl, rfl, rfl⟩⟩
  · rw [respondOk_blk, blockNoteOff_env, envNoteOff_eq_beginRelease hheld]
    exact ⟨rfl, rfl, rfl, rfl⟩
  · obtain ⟨_, _, _, hkept⟩ := Executes.noteOff_frame (.noteOff (b := s.blk))
    rw [respondOk_blk, hkept hdone]

/-- Settles O19: both channels carry `blockSample`, whose word is the exact product. -/
theorem processGivesOneSampleOnBothChannels : Obligations.ProcessGivesOneSampleOnBothChannels := by
  refine ⟨fun rate S s hS hrate => ?_, fun rate s => execProcess_nonpos s, fun rate => ?_⟩
  · exact ⟨_, blockSample S s.blk, execProcess_pos s hS hrate, oscAdvance_phase_toNat S s.blk.osc, rfl, rfl, rfl,
      envProcess_relStart _ _ _, blockSample_toInt S s.blk, rfl, rfl⟩
  · obtain ⟨hformat, _⟩ := decode_eq_process_iff.mp (decode_encode (.process rate))
    exact ⟨hformat, opField_packWord _ _ _⟩

end Sys2Proof.Machine
end

section
/-! The commands of the parameters (spec/44_parameters.md): the ids of rule R136, what `SET_PARAM` and `GET_PARAM` write
and answer (rules R137, R138), and the round trip of rule R139. The round trip rests on one fact about a step: a register
changes by a reset or by its own `SET_PARAM` only. -/

namespace Sys2Proof.Machine

/-- Every id of 4 or less is the id of a parameter (R136). -/
theorem exists_param_of_id_le {id : Nat} (h : id ≤ 4) : ∃ p : Param, p.id = id := by
  have hsome : paramOf id ≠ none := by
    rw [Ne, paramOf_eq_none]
    omega
  obtain ⟨p, hp⟩ := Option.ne_none_iff_exists'.mp hsome
  exact ⟨p, paramOf_eq_some.mp hp⟩

/-- No two parameters share an id (R21). -/
theorem Param.id_inj {p q : Param} : p.id = q.id ↔ p = q := by
  rw [← paramOf_eq_some, paramOf_id, Option.some.injEq, eq_comm]

/-- Of the commands only `SET_PARAM` of a register changes it, to the operand (R139). -/
theorem Executes.setParam_of_read_ne {b b' : Block} {i : Instr} {r : Response} {p : Param} (h : Executes b i b' r)
    (hne : b'.x.read p ≠ b.x.read p) : ∃ id v, i = .setParam id v ∧ id.toNat = p.id ∧ b'.x.read p = v := by
  cases h with
  | noteOn | noteOff | process | badRate | setUnknown | getParam | getUnknown => exact absurd rfl hne
  | @setParam id q value hid =>
    rw [Params.read_write] at hne ⊢
    by_cases hpq : p = q
    · subst hpq
      exact ⟨id, value, rfl, (paramOf_eq_some.mp hid).symm, if_pos rfl⟩
    · exact absurd (if_neg hpq) hne

/-- A step that changes a register is a reset or a `SET_PARAM` of that register (R139). -/
theorem step_read_ne {s t : State} {p : Param} (h : step s = .next t) (hne : t.blk.x.read p ≠ s.blk.x.read p) :
    (∃ inFlight rest, s.inputs = .reset inFlight :: rest) ∨
    (∃ w rest id v, s.inputs = .command w :: rest ∧ decode w = .command (.setParam id v) ∧ id.toNat = p.id ∧
      t.blk.x.read p = v) := by
  obtain ⟨f, rest, hin, _⟩ | ⟨w, rest, i, r, hin, hdec, _, hx⟩ | hblk := step_next_cases h
  · exact .inl ⟨f, rest, hin⟩
  · obtain ⟨id, v, rfl, hid, hread⟩ := hx.setParam_of_read_ne hne
    exact .inr ⟨w, rest, id, v, hin, hdec, hid, hread⟩
  · exact absurd (by rw [hblk]) hne

/-- A host input that is neither a reset nor a `SET_PARAM` of this id. -/
def HostInput.LeavesParam (id : ByteField) (h : HostInput) : Prop :=
  h.isReset = false ∧ ∀ u, h.instr? ≠ some (.setParam id u)

/-- A step that takes such an input keeps the register of the id. -/
theorem step_keeps_read {s t : State} {id : ByteField} {p : Param} {h : HostInput} {rest : List HostInput}
    (hid : p.id = id.toNat) (hleaves : h.LeavesParam id) (hin : s.inputs = h :: rest) (hstep : step s = .next t) :
    t.blk.x.read p = s.blk.x.read p := by
  obtain ⟨hreset, hset⟩ := hleaves
  by_contra hne
  obtain ⟨f, _, hin'⟩ | ⟨w, _, id', v, hin', hdec, hid', _⟩ := step_read_ne hstep hne
  · cases hin.symm.trans hin'
    cases hreset
  · cases hin.symm.trans hin'
    have hsame : id' = id := BitVec.eq_of_toNat_eq (hid'.trans hid)
    exact hset v (command?_eq_some.mpr (hsame ▸ hdec))

/-- A run that takes such inputs only keeps the register of the id. -/
theorem exists_runSteps_keeps_read {id : ByteField} {p : Param} (hid : p.id = id.toNat) {between : List HostInput}
    (hleaves : ∀ h ∈ between, h.LeavesParam id) {s : State} {rest : List HostInput}
    (hin : s.inputs = between ++ rest) :
    ∃ t, runSteps between.length s = .next t ∧ t.blk.x.read p = s.blk.x.read p ∧ t.inputs = rest := by
  induction between generalizing s with
  | nil => exact ⟨s, rfl, rfl, hin⟩
  | cons h between ih =>
    obtain ⟨u, hstep, htail⟩ := exists_step s
    have hread : u.blk.x.read p = s.blk.x.read p := step_keeps_read hid (hleaves h List.mem_cons_self) hin hstep
    obtain ⟨t, hrun, hread', hrest⟩ :=
      ih (fun i hi => hleaves i (List.mem_cons_of_mem h hi)) (s := u) (by rw [htail, hin]; rfl)
    exact ⟨t, (runSteps_succ hstep).trans hrun, hread'.trans hread, hrest⟩

/-- A run of `m + n` steps is `n` steps from where `m` steps end. -/
theorem runSteps_add {m : Nat} (n : Nat) {s t : State} (h : runSteps m s = .next t) :
    runSteps (m + n) s = runSteps n t := by
  induction m generalizing s with
  | zero =>
    cases h
    rw [Nat.zero_add]
  | succ m ih =>
    obtain ⟨u, hstep, _⟩ := exists_step s
    rw [Nat.succ_add, runSteps_succ hstep]
    exact ih ((runSteps_succ hstep).symm.trans h)

/-- A presented `SET_PARAM` of a parameter stores the word (R137). -/
theorem exists_step_setParam {s : State} {id : ByteField} {p : Param} {v : DataField} {rest : List HostInput}
    (hid : p.id = id.toNat) (hin : s.inputs = .command (encode (.setParam id v)) :: rest) :
    ∃ t, step s = .next t ∧ t.blk.x.read p = v ∧ t.inputs = rest := by
  refine ⟨_, (step_command hin (decode_encode _)).trans (execSetParam_known v _ (paramOf_eq_some.mpr hid)), ?_, rfl⟩
  rw [respondOk_blk, Params.read_write, if_pos rfl]

/-- A presented `GET_PARAM` of a parameter answers the stored word (R138). -/
theorem exists_step_getParam {s : State} {id : ByteField} {p : Param} {rest : List HostInput}
    (hid : p.id = id.toNat) (hin : s.inputs = .command (encode (.getParam id)) :: rest) :
    ∃ t, step s = .next t ∧ t.rsp = some ⟨.ok, 0, 0, s.blk.x.read p⟩ ∧ t.inputs = rest :=
  ⟨_, (step_command hin (decode_encode _)).trans (execGetParam_known _ (paramOf_eq_some.mpr hid)), rfl, rfl⟩

/-- What a run stores at an id, and leaves alone, it reads back (R139). -/
theorem exists_runSteps_reads_back {id : ByteField} {v : DataField} {s : State} {between tail : List HostInput}
    (hid : id.toNat ≤ 4) (hleaves : ∀ h ∈ between, h.LeavesParam id)
    (hin : s.inputs = .command (encode (.setParam id v)) :: (between ++ .command (encode (.getParam id)) :: tail)) :
    ∃ t, runSteps (between.length + 2) s = .next t ∧ t.rsp = some ⟨.ok, 0, 0, v⟩ ∧ t.inputs = tail := by
  obtain ⟨p, hp⟩ := exists_param_of_id_le hid
  obtain ⟨s₁, hstore, hstored, hin₁⟩ := exists_step_setParam hp hin
  obtain ⟨s₂, hrun, hkept, hin₂⟩ := exists_runSteps_keeps_read hp hleaves hin₁
  obtain ⟨t, hload, hrsp, hrest⟩ := exists_step_getParam hp hin₂
  have hread : s₂.blk.x.read p = v := hkept.trans hstored
  refine ⟨t, ?_, hread ▸ hrsp, hrest⟩
  calc runSteps (between.length + 2) s
      = runSteps (between.length + 1) s₁ := runSteps_succ hstore
    _ = runSteps 1 s₂ := runSteps_add 1 hrun
    _ = .next t := runSteps_succ hload

/-- Settles O24: the round trip, and the inputs that change a register. -/
theorem storedParameterReadsBack : Obligations.StoredParameterReadsBack :=
  ⟨fun _ _ _ _ _ hid hleaves hin => exists_runSteps_reads_back hid hleaves hin, fun _ _ _ => step_read_ne⟩

/-- Settles O21: a valid id names one parameter, whose register is written; at any other id the command fails. -/
theorem setParamWritesExactlyOneRegister : Obligations.SetParamWritesExactlyOneRegister := by
  intro id value s
  obtain ⟨hformat, _⟩ := decode_eq_setParam_iff.mp (decode_encode (.setParam id value))
  refine ⟨fun hle => ?_, fun hge => ?_, hformat, opField_packWord _ _ _⟩
  · obtain ⟨p, hp⟩ := exists_param_of_id_le hle
    refine ⟨_, execSetParam_known value s (paramOf_eq_some.mpr hp), fun q => ?_, rfl, rfl, rfl, rfl⟩
    rw [respondOk_blk, Params.read_write, ← hp]
    simp only [Param.id_inj]
  · exact execSetParam_unknown value s (paramOf_eq_none.mpr hge)

/-- Settles O22: the answer at a parameter's id, and the failure at any other. -/
theorem getParamAnswersTheStoredWord : Obligations.GetParamAnswersTheStoredWord := by
  intro id s
  obtain ⟨hformat, _⟩ := decode_eq_getParam_iff.mp (decode_encode (.getParam id))
  refine ⟨fun p hid => ?_, fun hge => ?_, hformat, opField_packWord _ _ _⟩
  · exact execGetParam_known s (paramOf_eq_some.mpr hid.symm)
  · exact execGetParam_unknown s (paramOf_eq_none.mpr hge)

/-- Settles O23: `paramOf` inverts `Param.id`, and every id of 4 or less is a parameter's. -/
theorem parameterIdsMapBijectively : Obligations.ParameterIdsMapBijectively := by
  refine ⟨fun id hle => ?_, fun id => paramOf_eq_none.mpr, paramOf_id, rfl, rfl, rfl, rfl, rfl⟩
  obtain ⟨p, hp⟩ := exists_param_of_id_le hle
  exact ⟨p, paramOf_eq_some.mpr hp, hp⟩

end Sys2Proof.Machine
end

section
/-! The exceptions (spec/60_exceptions.md): an error status comes with no write and no payload, and is no reason to stop
(rules R15, R146, R154); `BAD_RATE` is raised at the rate words of 0 or less (rule R148). -/

namespace Sys2Proof.Machine

/-- The response of a failed command carries nothing but its status (R15, R62). -/
theorem Executes.response_of_error {b b' : Block} {i : Instr} {r : Response} (h : Executes b i b' r)
    (hr : r.status ≠ .ok) : r = errorResponse r.status := by
  cases h with
  | noteOn | noteOff | process | setParam | getParam => exact absurd rfl hr
  | badRate | setUnknown | getUnknown => rfl

/-- An error status, of a command or of an illegal word, comes with an unchanged block and no payload. -/
theorem Answers.of_error {b b' : Block} {w : CmdWord} {r : Response} (h : Answers b w b' r) (hr : r.status ≠ .ok) :
    b' = b ∧ r = errorResponse r.status := by
  cases h with
  | command _ hx => exact ⟨hx.blk_eq_of_error hr, hx.response_of_error hr⟩
  | illegal _ => exact ⟨rfl, rfl⟩

/-- Settles O14: every presented word is answered, and `Answers.of_error` says what an error leaves. -/
theorem errorsChangeNothing : Obligations.ErrorsChangeNothing := by
  intro s w rest hin
  obtain ⟨t, r, hstep, hrsp, hrest, hanswers⟩ := exists_step_answers hin
  refine ⟨t, r, hstep, hrsp, hrest, fun hr => ?_⟩
  obtain ⟨hblk, hresponse⟩ := hanswers.of_error hr
  rw [hresponse]
  exact ⟨hblk, rfl, rfl, rfl⟩

/-- Settles O15, by induction on the number of steps: each one goes on and takes the first input. -/
theorem everyRunGoesOn : Obligations.EveryRunGoesOn := by
  intro n
  induction n with
  | zero => exact fun s => ⟨s, rfl, rfl⟩
  | succ n ih =>
    intro s
    obtain ⟨u, hstep, htail⟩ := exists_step s
    obtain ⟨t, hrun, hdrop⟩ := ih u
    refine ⟨t, (runSteps_succ hstep).trans hrun, ?_⟩
    calc t.inputs = s.inputs.tail.drop n := by rw [hdrop, htail]
      _ = s.inputs.drop (n + 1) := List.drop_tail

/-- The rate words of 0 or less are the zero word and the words with bit 31 set (R148). -/
theorem rate_toInt_nonpos_iff {rate : DataField} : rate.toInt ≤ 0 ↔ rate = 0 ∨ rate.msb = true := by
  have hzero : rate.toInt = 0 ↔ rate = 0 := BitVec.toInt_inj (y := 0)
  rw [le_iff_eq_or_lt, hzero, BitVec.msb_eq_toInt, decide_eq_true_iff]

/-- Settles O20: the zero word and the words with bit 31 set are the rates at which `PROCESS` fails; any other
gives a sample. -/
theorem badRateExactlyForZeroOrNegativeRates : Obligations.BadRateExactlyForZeroOrNegativeRates := by
  refine fun rate s => ⟨fun hbad => execProcess_nonpos s (rate_toInt_nonpos_iff.mpr hbad), fun hne hmsb => ?_⟩
  have hpos : ¬ rate.toInt ≤ 0 := by
    rw [rate_toInt_nonpos_iff, not_or]
    exact ⟨hne, by simp [hmsb]⟩
  exact ⟨_, _, execProcess_pos (S := rate.toInt.toNat) s (by omega) (by omega), rfl, rfl⟩

end Sys2Proof.Machine
end

section
/-! Reset (spec/70_reset_and_hazards.md rule R165), and what holds along a run because of the host's inputs it is given:
silence until the master volume is written (rule R166), and a sustain that does not end by itself (rule R182). Both are
one fact about a step, carried along the run by `exists_runSteps_of_step_of_inputs`. -/

namespace Sys2Proof.Machine

/-- Settles O2: the reset branch of `step` answers the reset block, whatever the command in flight. -/
theorem hostResetMapsEveryStateToReset : Obligations.HostResetMapsEveryStateToReset := by
  intro s f rest hin
  refine ⟨_, step_reset hin, ?_⟩
  rw [hostReset_blk]
  exact ⟨rfl, rfl, rfl, rfl, rfl, rfl, rfl, rfl, rfl, rfl, rfl, hostReset_rsp f _, rfl⟩

/-- What holds of every input of the host to come still does after a step. -/
theorem forall_inputs_of_step {Q : HostInput → Prop} {s t : State} (hs : ∀ h ∈ s.inputs, Q h)
    (hstep : step s = .next t) : ∀ h ∈ t.inputs, Q h := by
  obtain ⟨u, hu, htail⟩ := exists_step s
  cases hu.symm.trans hstep
  exact fun h hh => hs h (List.mem_of_mem_tail (htail ▸ hh))

/-- A run whose host inputs all meet `Q` keeps what every step keeps while the inputs to come meet `Q`. -/
theorem exists_runSteps_of_step_of_inputs {P : State → Prop} {Q : HostInput → Prop}
    (hkeep : ∀ {s t}, (∀ h ∈ s.inputs, Q h) → P s → step s = .next t → P t) (n : Nat) {s : State}
    (hin : ∀ h ∈ s.inputs, Q h) (hs : P s) : ∃ t, runSteps n s = .next t ∧ P t := by
  obtain ⟨t, hrun, _, ht⟩ := exists_runSteps_of_step (P := fun u => (∀ h ∈ u.inputs, Q h) ∧ P u)
    (fun ⟨hin, hu⟩ hstep => ⟨forall_inputs_of_step hin hstep, hkeep hin hu hstep⟩) n ⟨hin, hs⟩
  exact ⟨t, hrun, ht⟩

/-- With a master volume of 0 a sample is 0 (R121). -/
theorem blockSample_zero_volume {b : Block} (S : Nat) (h : b.x.masterVolume = 0) : blockSample S b = 0 := by
  rw [blockSample, h, sampleWord_zero_volume]

/-- With a master volume of 0 no answer carries sound: only `PROCESS` answers a sample (R62). -/
theorem Answers.silent_of_volume_zero {b b' : Block} {w : CmdWord} {r : Response} (hb : b.x.masterVolume = 0)
    (h : Answers b w b' r) : r.left = 0 ∧ r.right = 0 := by
  cases h with
  | illegal => exact ⟨rfl, rfl⟩
  | command _ hx =>
    cases hx with
    | process => exact ⟨blockSample_zero_volume _ hb, blockSample_zero_volume _ hb⟩
    | noteOn | noteOff | badRate | setParam | setUnknown | getParam | getUnknown => exact ⟨rfl, rfl⟩

/-- A step keeps a master volume of 0 unless it takes a `SET_PARAM` of id 0; a reset writes 0 again. -/
theorem step_keeps_volume_zero {s t : State} (hin : ∀ h ∈ s.inputs, ∀ v, h.instr? ≠ some (.setParam 0 v))
    (hs : s.blk.x.masterVolume = 0) (hstep : step s = .next t) : t.blk.x.masterVolume = 0 := by
  obtain ⟨_, _, _, hblk⟩ | ⟨w, rest, i, r, hw, hdec, _, hx⟩ | hblk := step_next_cases hstep
  · rw [hblk]
    rfl
  · by_contra hne
    obtain ⟨id, v, rfl, hid, _⟩ := hx.setParam_of_read_ne (p := .masterVolume) (fun heq => hne (heq.trans hs))
    have hid0 : id = 0 := BitVec.eq_of_toNat_eq hid
    exact hin (.command w) (by simp [hw]) v (command?_eq_some.mpr (hid0 ▸ hdec))
  · rw [hblk, hs]

/-- The machine while the master volume is 0: a response on the port carries no sound. -/
structure Muted (s : State) : Prop where
  volume : s.blk.x.masterVolume = 0
  silent : ∀ r, s.rsp = some r → r.left = 0 ∧ r.right = 0

theorem step_keeps_muted {s t : State} (hin : ∀ h ∈ s.inputs, ∀ v, h.instr? ≠ some (.setParam 0 v)) (hs : Muted s)
    (hstep : step s = .next t) : Muted t where
  volume := step_keeps_volume_zero hin hs.volume hstep
  silent r hr := by
    obtain ⟨w, hanswers⟩ := step_answers_of_rsp hstep hr
    exact hanswers.silent_of_volume_zero hs.volume

/-- Settles O53: reset mutes the machine, and every step but a `SET_PARAM` of id 0 keeps it muted. -/
theorem silentUntilTheVolumeIsWritten : Obligations.SilentUntilTheVolumeIsWritten := by
  intro n inputs hinputs
  obtain ⟨t, hrun, ht⟩ := exists_runSteps_of_step_of_inputs step_keeps_muted n
    (s := { State.reset with inputs := inputs }) hinputs ⟨rfl, nofun⟩
  exact ⟨t, hrun, ht.silent⟩

/-- How a step changes the envelope's state when no reset and no `NOTE_OFF` is to come (R109): to Attack by a `NOTE_ON`,
or by the end of a timed stage. -/
theorem step_envState_cases {s t : State} (hin : ∀ h ∈ s.inputs, h.isReset = false ∧ h.instr? ≠ some .noteOff)
    (hstep : step s = .next t) (hne : t.blk.env.state ≠ s.blk.env.state) :
    (t.blk.env.state = .attack ∧ ∃ h ∈ s.inputs, ∃ pitch, h.instr? = some (.noteOn pitch)) ∨
    (s.blk.env.state = .attack ∧ t.blk.env.state = .decay) ∨
    (s.blk.env.state = .decay ∧ t.blk.env.state = .sustain) ∨
    (s.blk.env.state = .release ∧ t.blk.env.state = .idle) := by
  obtain ⟨_, ⟨f, rest, hw, _⟩ | ⟨w, rest, pitch, hw, hdec, hattack, _⟩ | ⟨w, rest, hw, hdec, _⟩ |
    ⟨_, _, _, _, _, _, hend⟩⟩ := onlyTheseEventsChangeTheEnvelopeState s t hstep hne
  · obtain ⟨hreset, _⟩ := hin (.reset f) (by simp [hw])
    cases hreset
  · exact .inl ⟨hattack, .command w, by simp [hw], pitch, command?_eq_some.mpr hdec⟩
  · obtain ⟨_, hoff⟩ := hin (.command w) (by simp [hw])
    exact absurd (command?_eq_some.mpr hdec) hoff
  · obtain ⟨hbefore, hafter, _⟩ | ⟨hbefore, hafter, _⟩ | ⟨hbefore, hafter, _⟩ := hend
    · exact .inr (.inl ⟨hbefore, hafter⟩)
    · exact .inr (.inr (.inl ⟨hbefore, hafter⟩))
    · exact .inr (.inr (.inr ⟨hbefore, hafter⟩))

/-- Of the changes left when no `NOTE_ON` is to come either, none begins in Sustain. -/
theorem step_keeps_sustain {s t : State}
    (hin : ∀ h ∈ s.inputs, h.isReset = false ∧ h.instr? ≠ some .noteOff ∧ ∀ pitch, h.instr? ≠ some (.noteOn pitch))
    (hs : s.blk.env.state = .sustain) (hstep : step s = .next t) : t.blk.env.state = .sustain := by
  by_contra hne
  have hoff : ∀ h ∈ s.inputs, h.isReset = false ∧ h.instr? ≠ some .noteOff := fun h hh =>
    have ⟨hreset, hnoOff, _⟩ := hin h hh
    ⟨hreset, hnoOff⟩
  obtain ⟨_, h, hh, pitch, hon⟩ | ⟨hbefore, _⟩ | ⟨hbefore, _⟩ | ⟨hbefore, _⟩ :=
    step_envState_cases hoff hstep (hs ▸ hne)
  · obtain ⟨_, _, hnoOn⟩ := hin h hh
    exact hnoOn pitch hon
  all_goals cases hs.symm.trans hbefore

/-- A note that is played and not yet let go: the states from which the way to Idle leads through `NOTE_OFF`. -/
def EnvState.IsHeld (e : EnvState) : Prop := e = .attack ∨ e = .decay ∨ e = .sustain

theorem EnvState.not_isHeld_idle : ¬ EnvState.idle.IsHeld := by simp [IsHeld]

theorem EnvState.not_isHeld_release : ¬ EnvState.release.IsHeld := by simp [IsHeld]

/-- Of the changes left when no `NOTE_OFF` is to come, the one to Idle begins in Release. -/
theorem step_keeps_isHeld {s t : State} (hin : ∀ h ∈ s.inputs, h.isReset = false ∧ h.instr? ≠ some .noteOff)
    (hs : s.blk.env.state.IsHeld) (hstep : step s = .next t) : t.blk.env.state.IsHeld := by
  by_cases hne : t.blk.env.state = s.blk.env.state
  · exact hne ▸ hs
  · obtain ⟨hattack, _⟩ | ⟨_, hdecay⟩ | ⟨_, hsustain⟩ | ⟨hrelease, _⟩ := step_envState_cases hin hstep hne
    · exact .inl hattack
    · exact .inr (.inl hdecay)
    · exact .inr (.inr hsustain)
    · exact absurd (hrelease ▸ hs) EnvState.not_isHeld_release

/-- Settles O54: under the inputs of the first clause every step keeps Sustain, under those of the second every step keeps
the note held, which Idle is not. -/
theorem sustainDoesNotEndByItself : Obligations.SustainDoesNotEndByItself := by
  refine fun n s hs => ⟨fun hin => exists_runSteps_of_step_of_inputs step_keeps_sustain n hin hs, fun hin => ?_⟩
  obtain ⟨t, hrun, hheld⟩ := exists_runSteps_of_step_of_inputs (P := fun u => u.blk.env.state.IsHeld)
    step_keeps_isHeld n hin (.inr (.inr hs))
  exact ⟨t, hrun, fun hidle => EnvState.not_isHeld_idle (hidle ▸ hheld)⟩

end Sys2Proof.Machine
end
